-- ==== Sys2Proof/Word.lean ====
section
/-! DEFINITION. The word types of the MCS: the 32-bit trace word (30_encoding.md R70), the 16-bit sample (00_scope.md
R6, SAMPLE_W) and the byte of a line's text (44_interfaces.md R226). -/

namespace Sys2Proof

/-- A trace word (R70). -/
abbrev Word := BitVec 32

/-- A sample: a word of the stack, the ADC's result, a word of a drained line (R6, R22, R23). -/
abbrev Sample := BitVec 16

/-- A byte of the transmitted text (R226, R229). -/
abbrev Byte := BitVec 8

end Sys2Proof
end

