-- ==== Sys2Proof/Config.lean ====
section
/-! DEFINITION. The parameters of 00_scope.md R6: the table's fixed values as a record type, and the OPEN parameters as
the configuration a model takes as its argument (R2, R6). The three OPEN values no rule fixes are constants without a
body; a statement about them holds for every value. -/

namespace Sys2Proof

/-- The two variants of the block (R2). -/
inductive Variant where
  | simple
  | extended
  deriving DecidableEq, Repr

/-- The fixed parameters of R6. Their values stand in Machine/Params.lean; the sample width is the type `Sample`. -/
structure Params where
  /-- CAP: stack capacity, samples per sweep. -/
  cap : Nat
  /-- NCHAN_SIMPLE: channels of the simple round-robin. -/
  nchanSimple : Nat
  /-- CTR_W: width of the simple channel counter. -/
  ctrW : Nat
  /-- NCHAN_EXT: channels of the extended sequencer. -/
  nchanExt : Nat
  /-- NMUX: channels below it are multiplexed. -/
  nmux : Nat
  /-- HOLD: samples per multiplexed channel. -/
  hold : Nat
  /-- REF_HOLD: samples per reference channel. -/
  refHold : Nat
  /-- MUX_PERIOD: modulus of the side counter. -/
  muxPeriod : Nat
  deriving DecidableEq, Repr

/-- The configuration: the parameters R6 marks OPEN. Fixed when the block is built (10_state.md R34). -/
structure Config where
  /-- VARIANT (R2). -/
  variant : Variant
  /-- TICK_THRESHOLD, an integer, well formed when at least 1 in EXTENDED (92 D14). -/
  tickThreshold : Nat
  /-- SENTINEL, what a POP of the empty stack returns (92 D13). -/
  sentinel : Sample
  /-- NEWLINE, the bytes the transport ends a line with (92 D25). -/
  newline : List Byte
  deriving DecidableEq, Repr

/-- Free value: TICK_THRESHOLD less one of the configuration at `State.reset` (93 U2; log 4). -/
opaque Config.openThresholdPred : Nat

/-- Free value: SENTINEL of the configuration at `State.reset` (93 U1; log 4). -/
opaque Config.openSentinel : Sample

/-- Free value: NEWLINE of the configuration at `State.reset` (93 U4; log 4). -/
opaque Config.openNewline : List Byte

/-- The configuration at `State.reset`. DESIGN CHOICE (log 4): R6 leaves all four OPEN; the variant is SIMPLE, the other
three are free values (the threshold at least 1). -/
def Config.built : Config :=
  { variant := .simple
    tickThreshold := Config.openThresholdPred + 1
    sentinel := Config.openSentinel
    newline := Config.openNewline }

end Sys2Proof
end

