-- ==== Sys2Proof/Machine/Params.lean ====
section
/-! DEFINITION. The fixed values of the parameter table of 00_scope.md R6, and the width of the tick counter
(10_state.md R28). -/

namespace Sys2Proof.Machine

/-- The table of R6. A parameter R6 calls unused in a variant has the other variant's value there and is not read.
REF_HOLD is 1 by 90_conflicts.md C1. -/
def paramsOf (v : Variant) : Params :=
  { cap := match v with
      | .simple => 16
      | .extended => 34
    nchanSimple := 16
    ctrW := 8
    nchanExt := 10
    nmux := 8
    hold := 4
    refHold := 1
    muxPeriod := 16 }

/-- The width of `tick_count` for threshold `t`: `ceil(log2 t)` bits, at least 1 (R28). -/
def tickWidth (t : Nat) : Nat := max 1 (if t ≤ 1 then 0 else Nat.log2 (t - 1) + 1)

end Sys2Proof.Machine
end

