-- ==== Sys2Proof/Syntax.lean ====
section
/-! DEFINITION. The operations of the MCS, one constructor per row of spec/opcode_table.json (30_encoding.md R71), the
trace modes (R76), the operation classes (R75) and the controller's actions (43_scheduler.md R195). -/

namespace Sys2Proof

/-- The two modes a trace is read in (R76). -/
inductive Mode where
  | system
  | unit
  deriving DecidableEq, Repr

/-- The operations (R71). Only PUSH and CONV_DONE carry an operand, a sample taken as is (R72). -/
inductive Instr where
  | reset
  | tick
  | convDone (d : Sample)
  | startConv
  | wake
  | consume
  | transmit
  | pass
  | push (d : Sample)
  | pop
  | drain
  | advanceSimple
  | nextChan
  | nextMux
  deriving DecidableEq, Repr

/-- The three classes of operations (R75). -/
inductive OpClass where
  | event
  | controllerAction
  | microOperation
  deriving DecidableEq, Repr

/-- The controller's actions, the values `ctl_next` can take (43_scheduler.md R195). -/
inductive CtlAction where
  | startConv
  | wake
  | consume
  | transmit
  | pass
  deriving DecidableEq, Repr

/-- The operation that names a controller action in a trace (R79). -/
def CtlAction.instr : CtlAction → Instr
  | .startConv => .startConv
  | .wake => .wake
  | .consume => .consume
  | .transmit => .transmit
  | .pass => .pass

end Sys2Proof
end

