-- ==== Sys2Proof/Decode.lean ====
section
/-! DEFINITION. Decoding and encoding of trace words (30_encoding.md R70 to R80): the decoder, total on every 32-bit
word and refusing by name in the order of R74; the operation classes, modes and variants of R71; the encoder; and the
opcode table's numbering of a word's bits. -/

namespace Sys2Proof

/-- The refusals a word meets when it is decoded, the first five reasons of R78. -/
inductive DecodeRefusal where
  /-- OP is 0x0 or 0xF. -/
  | reservedOp
  /-- RSV is not zero. -/
  | reservedBits
  /-- DATA is not zero on an operation with no operand. -/
  | nonzeroData
  /-- The operation is not admitted in the trace's mode. -/
  | wrongMode
  /-- The operation does not exist in the configured variant. -/
  | wrongVariant
  deriving DecidableEq, Repr

/-- The field OP, bits 31 to 28 (R70). -/
def opField (w : Word) : BitVec 4 := w.extractLsb' 28 4

/-- The field RSV, bits 27 to 16 (R70). -/
def rsvField (w : Word) : BitVec 12 := w.extractLsb' 16 12

/-- The field DATA, bits 15 to 0 (R70). -/
def dataField (w : Word) : Sample := w.extractLsb' 0 16

/-- The operation an OP code selects, with its operand (R71, R72); the reserved codes select none. -/
def operation (op : BitVec 4) (d : Sample) : Option Instr :=
  match op.toNat with
  | 0x1 => some .reset
  | 0x2 => some .tick
  | 0x3 => some (.convDone d)
  | 0x4 => some .startConv
  | 0x5 => some .wake
  | 0x6 => some .consume
  | 0x7 => some .transmit
  | 0x8 => some .pass
  | 0x9 => some (.push d)
  | 0xA => some .pop
  | 0xB => some .drain
  | 0xC => some .advanceSimple
  | 0xD => some .nextChan
  | 0xE => some .nextMux
  | _ => none

/-- PUSH and CONV_DONE are the only operations with an operand (R72). -/
def Instr.hasOperand : Instr → Bool
  | .convDone _ => true
  | .push _ => true
  | .reset | .tick | .startConv | .wake | .consume | .transmit | .pass | .pop | .drain | .advanceSimple
  | .nextChan | .nextMux => false

/-- The class column of R71. -/
def Instr.opClass : Instr → OpClass
  | .reset | .tick | .convDone _ => .event
  | .startConv | .wake | .consume | .transmit | .pass => .controllerAction
  | .push _ | .pop | .drain | .advanceSimple | .nextChan | .nextMux => .microOperation

/-- The trace-mode column of R71 (R76): SYSTEM admits the events and the controller actions, UNIT admits RESET, TICK and
the micro-operations. -/
def Instr.admittedIn (m : Mode) (i : Instr) : Bool :=
  match m, i with
  | _, .reset => true
  | _, .tick => true
  | .system, .convDone _ => true
  | .unit, .convDone _ => false
  | .system, j => j.opClass == .controllerAction
  | .unit, j => j.opClass == .microOperation

/-- The variant column of R71 (R77). -/
def Instr.presentIn (v : Variant) : Instr → Bool
  | .advanceSimple => v == .simple
  | .nextChan => v == .extended
  | .nextMux => v == .extended
  | .reset | .tick | .convDone _ | .startConv | .wake | .consume | .transmit | .pass | .push _ | .pop | .drain => true

/-- The last two checks of R74: the mode, then the variant. -/
def admission (m : Mode) (v : Variant) (i : Instr) : Option DecodeRefusal :=
  if i.admittedIn m = false then some .wrongMode
  else if i.presentIn v = false then some .wrongVariant
  else none

/-- The first three checks of R74, which look at the word alone. -/
def decode (w : Word) : Except DecodeRefusal Instr :=
  match operation (opField w) (dataField w) with
  | none => .error .reservedOp
  | some i =>
    if rsvField w ≠ 0 then .error .reservedBits
    else if i.hasOperand = false ∧ dataField w ≠ 0 then .error .nonzeroData
    else .ok i

/-- `decode(w, mode, VARIANT)` of R74, all its checks in the order shown. -/
def decodeIn (m : Mode) (v : Variant) (w : Word) : Except DecodeRefusal Instr :=
  match decode w with
  | .error r => .error r
  | .ok i =>
    match admission m v i with
    | some r => .error r
    | none => .ok i

/-- The OP column of R71. -/
def Instr.opcode : Instr → BitVec 4
  | .reset => 0x1
  | .tick => 0x2
  | .convDone _ => 0x3
  | .startConv => 0x4
  | .wake => 0x5
  | .consume => 0x6
  | .transmit => 0x7
  | .pass => 0x8
  | .push _ => 0x9
  | .pop => 0xA
  | .drain => 0xB
  | .advanceSimple => 0xC
  | .nextChan => 0xD
  | .nextMux => 0xE

/-- The DATA field of an operation's word: its operand, or zero (R72). -/
def Instr.data : Instr → Sample
  | .convDone d => d
  | .push d => d
  | .reset | .tick | .startConv | .wake | .consume | .transmit | .pass | .pop | .drain | .advanceSimple
  | .nextChan | .nextMux => 0

/-- The word of an operation, `{OP, 12'h000, d}` (R81). -/
def encode (i : Instr) : Word := i.opcode ++ ((0 : BitVec 12) ++ i.data)

/-- The word whose bits the opcode table numbers `w`, of which it gives `nbits`; the bits above are zero. A trace word
is one 32-bit unit, so the table's numbering is the word's own (R70). -/
def tableWord (nbits w : Nat) : Word := BitVec.ofNat 32 (w % 2 ^ nbits)

/-- The operation the decoder reads from a table row's word; no word is longer than 32 bits (R80). -/
def decodeTableWord (nbits w : Nat) : Option Instr :=
  if nbits ≤ 32 then
    match decode (tableWord nbits w) with
    | .ok i => some i
    | .error _ => none
  else none

/-- A mode that admits the operation: the given one if it does, else the other (R76). -/
def Instr.modeFor (m : Mode) (i : Instr) : Mode :=
  if i.admittedIn m then m
  else
    match m with
    | .system => .unit
    | .unit => .system

/-- A variant that has the operation: the given one if it does, else the other (R77). -/
def Instr.variantFor (v : Variant) (i : Instr) : Variant :=
  if i.presentIn v then v
  else
    match v with
    | .simple => .extended
    | .extended => .simple

end Sys2Proof
end

