-- ==== Sys2Proof/Machine/State.lean ====
section
/-! DEFINITION. The state of the MCS (10_state.md R20 to R36), the records of its output trace (44_interfaces.md R224),
the reasons a step stops, and the state after reset (R36; 70_reset_and_hazards.md R291). -/

namespace Sys2Proof.Machine

/-- The controller's position in its loop (R21). -/
inductive Phase where
  | start
  | wait
  | consume
  | xmit
  deriving DecidableEq, Repr

/-- The 2-bit code of a phase (R21). -/
def Phase.code : Phase → BitVec 2
  | .start => 0b00
  | .wait => 0b01
  | .consume => 0b10
  | .xmit => 0b11

/-- The side selector (R31). -/
inductive Side where
  | a
  | b
  deriving DecidableEq, Repr

/-- The 1-bit code of a side (00_scope.md R12). -/
def Side.code : Side → BitVec 1
  | .a => 0
  | .b => 1

/-- An output record (44_interfaces.md R224). -/
inductive Record where
  /-- The conversion-start strobe, with the channel and mux lines it sampled. -/
  | start (ch a b : BitVec 4)
  /-- A drained line, in the order its words left. -/
  | line (words : List Sample)
  /-- The flush after a line. -/
  | flush
  /-- The value a POP returned, in a UNIT trace. -/
  | popped (v : Sample)
  deriving DecidableEq, Repr

/-- The trace still to be taken and the mode it is read in (30_encoding.md R76; log 5). -/
structure Trace where
  mode : Mode
  words : List Word
  deriving DecidableEq, Repr

/-- The slots the stack is held in, CAP of the larger variant; SIMPLE reaches the first 16 only (log 11). -/
abbrev maxSlots : Nat := 34

/-- The state: the record of R36 in its order, then the model's own three fields (R35 says they are not state of the
block): the configuration, which no transition writes, the trace, and the output trace. -/
structure State where
  /-- R21 -/
  phase : Phase
  /-- R22: the words of the stack -/
  stack : Vector Sample maxSlots
  /-- R22, R9: the stack index, 7-bit two's complement -/
  top : BitVec 7
  /-- R23 -/
  rawSample : Sample
  /-- R24 -/
  measReady : Bool
  /-- R25 -/
  sweepFlag : Bool
  /-- R26 -/
  convPending : Bool
  /-- R27 -/
  convCount : BitVec 8
  /-- R28: an unsigned integer below TICK_THRESHOLD (log 10) -/
  tickCount : Nat
  /-- R29 -/
  ctr : BitVec 8
  /-- R30 -/
  chan : BitVec 4
  /-- R30 -/
  sub : BitVec 2
  /-- R31 -/
  mcount : BitVec 4
  /-- R31 -/
  side : Side
  /-- R32 -/
  muxA : BitVec 4
  /-- R32 -/
  muxB : BitVec 4
  /-- the model's own: R6, R34 (log 3) -/
  cfg : Config
  /-- the model's own: R76 (log 5) -/
  trace : Trace
  /-- the model's own: R224, oldest record first (log 7) -/
  out : List Record
  deriving DecidableEq, Repr

/-- What stops the machine. The hardware raises no exception (60_exceptions.md R250). -/
inductive Fault where
  /-- Raised by `stackRead` and `stackWrite` at an index outside `[0, CAP-1]`, where the spec defines neither (00_scope.md
  R10). Safe: no run reaches it (20_memory.md R53; log 8). -/
  | stackIndex (index : BitVec 7)
  deriving DecidableEq, Repr

/-- The reasons a word has no meaning (30_encoding.md R78). None is hardware behaviour (60_exceptions.md R251). -/
inductive Refusal where
  /-- An operation exec has no meaning for yet. Safe. No arm raises it. -/
  | notModelled (mnemonic : String)
  /-- Raised by the decoder in `step` and by `ifAdmitted` in a meaning: the first five reasons of R78. Safe (92 D35). -/
  | word (r : DecodeRefusal)
  /-- Raised by `ifNext`: a controller action that is not `ctl_next` of the state (R78, R79). Safe (92 D4). -/
  | notEnabled
  /-- Raised by `ifAdmitted`: the configuration breaks R7 or has threshold 0 (93 U3, U17). Safe (92 D14; log 16). -/
  | illFormedConfig
  /-- Raised by `takeWord` when the trace has no further word: a run is a finite trace (43_scheduler.md R200). Safe
  (log 5). -/
  | traceEnd
  deriving DecidableEq, Repr

/-- What a meaning answers. -/
abbrev Result := Host.Outcome State Fault Refusal

/-- `top = -1`, the empty stack, in 7-bit two's complement (R9, R22). -/
abbrev emptyTop : BitVec 7 := 127#7

/-- The state after reset of a block built with configuration `c` that is given the trace `t` (R36, R291). The stack and
`raw_sample`, which R36 lets have any value, are zero: DESIGN CHOICE, unsafe (log 1, log 2). -/
def State.powerOn (c : Config) (t : Trace) : State :=
  { phase := .start
    stack := Vector.replicate maxSlots 0
    top := emptyTop
    rawSample := 0
    measReady := false
    sweepFlag := false
    convPending := false
    convCount := 0
    tickCount := 0
    ctr := 0
    chan := 0
    sub := 0
    mcount := 0
    side := .a
    muxA := 0b0000
    muxB := 0b0000
    cfg := c
    trace := t
    out := [] }

/-- The machine after reset: the reset state of R36 with the configuration of log 4 and an empty SYSTEM trace (log 5). -/
def State.reset : State := State.powerOn Config.built { mode := .system, words := [] }

/-! One named update per field (one lemma each in Laws/State.lean). -/

def State.setPhase (s : State) (x : Phase) : State := { s with phase := x }
def State.setStack (s : State) (x : Vector Sample maxSlots) : State := { s with stack := x }
def State.setTop (s : State) (x : BitVec 7) : State := { s with top := x }
def State.setRawSample (s : State) (x : Sample) : State := { s with rawSample := x }
def State.setMeasReady (s : State) (x : Bool) : State := { s with measReady := x }
def State.setSweepFlag (s : State) (x : Bool) : State := { s with sweepFlag := x }
def State.setConvPending (s : State) (x : Bool) : State := { s with convPending := x }
def State.setConvCount (s : State) (x : BitVec 8) : State := { s with convCount := x }
def State.setTickCount (s : State) (x : Nat) : State := { s with tickCount := x }
def State.setCtr (s : State) (x : BitVec 8) : State := { s with ctr := x }
def State.setChan (s : State) (x : BitVec 4) : State := { s with chan := x }
def State.setSub (s : State) (x : BitVec 2) : State := { s with sub := x }
def State.setMcount (s : State) (x : BitVec 4) : State := { s with mcount := x }
def State.setSide (s : State) (x : Side) : State := { s with side := x }
def State.setMuxA (s : State) (x : BitVec 4) : State := { s with muxA := x }
def State.setMuxB (s : State) (x : BitVec 4) : State := { s with muxB := x }
def State.setTrace (s : State) (x : Trace) : State := { s with trace := x }
def State.setOut (s : State) (x : List Record) : State := { s with out := x }

end Sys2Proof.Machine
end

