-- ==== Sys2Proof/Machine/Operands.lean ====
section
/-! DEFINITION. The inputs of an operation (30_encoding.md R72, R73): its operand, the parameters of the configuration,
and the functions of state an operation reads: the hold count and the channel select (41_channel_sequencer.md R132,
R133, R135). -/

namespace Sys2Proof.Machine

/-- The operand of PUSH and CONV_DONE: taken as is, with no extension, scaling or sign, and not range-checked (R72). -/
def operandSample (d : Sample) : Sample := d

/-- The fixed parameters of the state's variant (00_scope.md R6). -/
def params (s : State) : Params := paramsOf s.cfg.variant

/-- CAP of the state's variant. -/
def cap (s : State) : Nat := (params s).cap

/-- `hold_of(chan)`: HOLD on the multiplexed channels, REF_HOLD on the reference channels (R133). -/
def holdOf (s : State) : Nat :=
  if s.chan.toNat < (params s).nmux then (params s).hold else (params s).refHold

/-- `sel_chan(s)`, which drives `adc_chsel` at all times (R132, R135; 10_state.md R33). -/
def selChan (s : State) : BitVec 4 :=
  match s.cfg.variant with
  | .simple => BitVec.ofNat 4 (s.ctr.toNat % (params s).nchanSimple)
  | .extended => s.chan

end Sys2Proof.Machine
end

