-- ==== Sys2Proof/Machine/Flags.lean ====
section
/-! DEFINITION. The predicates on state: the stack's two flags (40_sample_buffer.md R100, R101), the controller's guards
(43_scheduler.md R192 to R194) and its one enabled action `ctl_next` (R195). -/

namespace Sys2Proof.Machine

/-- `is_empty(s)` (R100). -/
def isEmpty (s : State) : Bool := s.top == emptyTop

/-- `is_full(s)` (R101). -/
def isFull (s : State) : Bool := s.top == BitVec.ofNat 7 (cap s - 1)

/-- `start_guard(s)` (R192). -/
def startGuard (s : State) : Bool :=
  !s.measReady && !s.convPending && !isFull s && (s.cfg.variant == .simple || s.sweepFlag)

/-- `consume_guard(s)` (R193). -/
def consumeGuard (s : State) : Bool := s.measReady

/-- `xmit_guard(s)` (R194): SIMPLE reads the stack, EXTENDED the conversion counter. -/
def xmitGuard (s : State) : Bool :=
  match s.cfg.variant with
  | .simple => isFull s
  | .extended => s.convCount == BitVec.ofNat 8 (cap s)

/-- `ctl_next(s)`: the controller's one enabled action, or none when it is idle (R199) or suspended (42 R167). The rows
of R195. -/
def ctlNext (s : State) : Option CtlAction :=
  match s.phase with
  | .start =>
    if startGuard s then some .startConv
    else if consumeGuard s || xmitGuard s then some .pass
    else none
  | .wait => if s.convPending then none else some .wake
  | .consume => if consumeGuard s then some .consume else some .pass
  | .xmit => if xmitGuard s then some .transmit else some .pass

end Sys2Proof.Machine
end

