-- ==== Sys2Proof/WellFormed.lean ====
section
/-! DEFINITION. What a model must reject before it runs anything: an operation outside its trace mode or variant
(30_encoding.md R76, R77) and an ill-formed configuration (00_scope.md R7; 93 U3, U17). -/

namespace Sys2Proof

/-- The operation is one of the trace's mode and of the configured variant. -/
def Instr.wf (m : Mode) (v : Variant) (i : Instr) : Bool := i.admittedIn m && i.presentIn v

/-- The two equalities of R7: one cycle of the channel sequencer is one stack of samples, and its multiplexed samples
are two periods of the side counter. -/
def Params.agree (p : Params) : Bool :=
  p.nmux * p.hold + (p.nchanExt - p.nmux) * p.refHold == p.cap && p.nmux * p.hold == 2 * p.muxPeriod

/-- A configuration a model accepts, given its parameter table: in EXTENDED the equalities of R7 hold and
TICK_THRESHOLD is at least 1 (92 D14). SIMPLE reads none of these parameters. -/
def Config.wfWith (p : Params) (c : Config) : Bool :=
  match c.variant with
  | .simple => true
  | .extended => p.agree && 1 ≤ c.tickThreshold

/-- A configuration a model accepts, with the parameter table of R6. -/
def Config.wf (c : Config) : Bool := c.wfWith (Machine.paramsOf c.variant)

end Sys2Proof
end

