-- ==== Sys2Proof/Machine/Ops.lean ====
section
/-! DEFINITION. The operations the meanings are built from: admission of an operation (30_encoding.md R74, R79), output
(44_interfaces.md R224), the stack's reads, writes and micro-operations (40_sample_buffer.md R102 to R104), the
sequencer's steps (41_channel_sequencer.md R131, R134, R136, R138), and the effects of the events and controller actions
(42_conversion_and_timer.md, 43_scheduler.md, 70_reset_and_hazards.md R290).

The MCS takes no exception and returns from none: an event saves nothing, changes no mode and has no vector
(60_exceptions.md R250, R256, R257). So there is no exception-entry operation here; an event's effect is all of it. -/

namespace Sys2Proof.Machine

/-! Admission. -/

/-- Runs `k` if the configuration is one a model accepts (00_scope.md R7, 93 U3) and the operation is one of the trace's
mode and of the variant, in that order of checks (R74); else refuses by name. -/
def ifAdmitted (i : Instr) (s : State) (k : Result) : Result :=
  if s.cfg.wf = false then .refused .illFormedConfig
  else
    match admission s.trace.mode s.cfg.variant i with
    | some r => .refused (.word r)
    | none => k

/-- A controller action runs only if it is `ctl_next` of the state (R79). -/
def ifNext (a : CtlAction) (s : State) (k : Result) : Result :=
  ifAdmitted a.instr s (if ctlNext s = some a then k else .refused .notEnabled)

/-- The outcome of an effect that may meet the stack's fault. -/
def finish : Except Fault State → Result
  | .ok t => .next t
  | .error f => .fault f

/-- `emit(r)`: appends a record to the output trace (00_scope.md R10, 44 R224). -/
def emit (r : Record) (s : State) : State := s.setOut (s.out ++ [r])

/-! The stack. -/

/-- `StackRead(i)`, for `0 <= i < CAP` (R10). An index with its sign bit set is 64 or more as an unsigned number, so the
unsigned comparison is the range check. -/
def stackRead (i : BitVec 7) (s : State) : Except Fault Sample :=
  if i.toNat < cap s then .ok (s.stack[i.toNat]?.getD 0) else .error (.stackIndex i)

/-- `StackWrite(i, v)`, for `0 <= i < CAP` (R10). -/
def stackWrite (i : BitVec 7) (v : Sample) (s : State) : Except Fault State :=
  if i.toNat < cap s then .ok (s.setStack (s.stack.setIfInBounds i.toNat v)) else .error (.stackIndex i)

/-- PUSH(d) (R102). -/
def push (d : Sample) (s : State) : Except Fault State :=
  if isFull s then .ok s
  else stackWrite (s.top + 1) d (s.setTop (s.top + 1))

/-- POP() (R103): the value it returns and the state it leaves. The slot it read is not cleared (92 D28). -/
def pop (s : State) : Except Fault (Sample × State) :=
  if isEmpty s then .ok (s.cfg.sentinel, s.setTop emptyTop)
  else (stackRead s.top s).map fun v => (v, s.setTop (s.top - 1))

/-- The number of words the stack holds, `top + 1`. It is 0 only on the empty stack. -/
def depth (s : State) : Nat := (s.top + 1).toNat

/-- The loop of DRAIN (R104): while not empty, POP. Each pop lowers `depth` by one, so `depth` pops empty the stack. -/
def drainLoop : Nat → State → Except Fault (List Sample × State)
  | 0, s => .ok ([], s)
  | n + 1, s =>
    if isEmpty s then .ok ([], s)
    else
      match pop s with
      | .error f => .error f
      | .ok (v, t) => (drainLoop n t).map fun r => (v :: r.1, r.2)

/-- DRAIN() (R104): one line of the popped words, then a flush. -/
def drain (s : State) : Except Fault State :=
  (drainLoop (depth s) s).map fun r => emit .flush (emit (.line r.1) r.2)

/-! The sequencer. -/

/-- ADVANCE_SIMPLE() (R131). -/
def advanceSimple (s : State) : State :=
  s.setCtr (BitVec.ofNat 8 ((s.ctr.toNat + 1) % 2 ^ (params s).ctrW))

/-- NEXT_CHAN() (R134). The incremented sub-count is compared with `hold_of` before it is cut to its 2 bits, and
`hold_of` reads the channel before the update (log 9). -/
def nextChan (s : State) : State :=
  if s.sub.toNat + 1 = holdOf s then
    (s.setSub 0).setChan (BitVec.ofNat 4 ((s.chan.toNat + 1) % (params s).nchanExt))
  else s.setSub (BitVec.ofNat 2 (s.sub.toNat + 1))

/-- The other side (R136). -/
def otherSide : Side → Side
  | .a => .b
  | .b => .a

/-- The count of NEXT_MUX: increment, wrapping at MUX_PERIOD with a change of side (R136, 90 C6). -/
def countSide (s : State) : State :=
  if s.mcount.toNat + 1 = (params s).muxPeriod then (s.setMcount 0).setSide (otherSide s.side)
  else s.setMcount (BitVec.ofNat 4 (s.mcount.toNat + 1))

/-- The drive of NEXT_MUX: the group of the current side takes the counter; the other keeps its value (R136, 92 D10). -/
def driveSide (s : State) : State :=
  match s.side with
  | .a => s.setMuxA s.mcount
  | .b => s.setMuxB s.mcount

/-- NEXT_MUX() (R136): nothing on a reference channel. -/
def nextMux (s : State) : State :=
  if s.chan.toNat < (params s).nmux then driveSide (countSide s) else s

/-- `advance(s)` (R138). -/
def advance (s : State) : State :=
  match s.cfg.variant with
  | .simple => advanceSimple s
  | .extended => nextMux (nextChan s)

/-! The events. -/

/-- RESET() (70 R290): the stack, `raw_sample` and the output trace keep their values. -/
def resetBlock (s : State) : State :=
  { s with
    phase := .start
    top := emptyTop
    measReady := false
    sweepFlag := false
    convPending := false
    convCount := 0
    tickCount := 0
    ctr := 0
    chan := 0
    sub := 0
    mcount := 0
    side := .a
    muxA := 0b0000
    muxB := 0b0000 }

/-- TICK() (42 R162; in SIMPLE R163). -/
def tickBlock (s : State) : State :=
  match s.cfg.variant with
  | .simple => s
  | .extended =>
    if s.tickCount + 1 = s.cfg.tickThreshold then (s.setTickCount 0).setSweepFlag true
    else s.setTickCount ((s.tickCount + 1) % 2 ^ tickWidth s.cfg.tickThreshold)

/-- CONV_DONE(d) (42 R160). -/
def convDone (d : Sample) (s : State) : State :=
  ((s.setRawSample d).setMeasReady true).setConvPending false

/-! The controller actions. -/

/-- START_CONV() (42 R165). -/
def startConv (s : State) : State :=
  ((emit (.start (selChan s) s.muxA s.muxB) s).setConvPending true).setPhase .wait

/-- WAKE() (42 R166). -/
def wake (s : State) : State := s.setPhase .consume

/-- The counters and latches of CONSUME, after the sequencer and the stack (43 R196). -/
def countSample (s : State) : State :=
  ((s.setConvCount (s.convCount + 1)).setMeasReady false).setPhase .xmit

/-- CONSUME() (43 R196), in the order written (92 D43). -/
def consume (s : State) : Except Fault State :=
  (push (advance s).rawSample (advance s)).map countSample

/-- The latches of TRANSMIT, after the drain (43 R197). -/
def closeSweep (s : State) : State := ((s.setConvCount 0).setSweepFlag false).setPhase .start

/-- TRANSMIT() (43 R197). -/
def transmit (s : State) : Except Fault State := (drain s).map closeSweep

/-- The phase PASS goes on to (43 R198); it is never taken in WAIT. -/
def phaseAfter : Phase → Phase
  | .start => .consume
  | .wait => .wait
  | .consume => .xmit
  | .xmit => .start

/-- PASS() (43 R198). -/
def passPhase (s : State) : State := s.setPhase (phaseAfter s.phase)

end Sys2Proof.Machine
end

