-- ==== Sys2Proof/Machine/Buffer.lean ====
section
/-! DEFINITION. The meanings of the sample buffer's micro-operations as single transitions of a UNIT trace
(40_sample_buffer.md R102 to R104). -/

namespace Sys2Proof.Machine

/-- PUSH d (R102). -/
def execPush (d : Sample) (s : State) : Result := ifAdmitted (.push d) s (finish (push (operandSample d) s))

/-- POP (R103), which emits the value it returns. -/
def execPop (s : State) : Result :=
  ifAdmitted .pop s (finish ((pop s).map fun r => emit (.popped r.1) r.2))

/-- DRAIN (R104). -/
def execDrain (s : State) : Result := ifAdmitted .drain s (finish (drain s))

end Sys2Proof.Machine
end

