-- ==== Sys2Proof/Machine/Controller.lean ====
section
/-! DEFINITION. The meanings of the controller actions, each enabled only where it is `ctl_next` of the state
(30_encoding.md R79, 43_scheduler.md R195). -/

namespace Sys2Proof.Machine

/-- START_CONV (42_conversion_and_timer.md R165). -/
def execStartConv (s : State) : Result := ifNext .startConv s (.next (startConv s))

/-- WAKE (42_conversion_and_timer.md R166). -/
def execWake (s : State) : Result := ifNext .wake s (.next (wake s))

/-- CONSUME (43_scheduler.md R196). -/
def execConsume (s : State) : Result := ifNext .consume s (finish (consume s))

/-- TRANSMIT (43_scheduler.md R197). -/
def execTransmit (s : State) : Result := ifNext .transmit s (finish (transmit s))

/-- PASS (43_scheduler.md R198). -/
def execPass (s : State) : Result := ifNext .pass s (.next (passPhase s))

end Sys2Proof.Machine
end

