-- ==== Sys2Proof/Machine/Events.lean ====
section
/-! DEFINITION. The meanings of the events RESET, TICK and CONV_DONE, enabled in every state of a trace that admits them
(30_encoding.md R75, R79). -/

namespace Sys2Proof.Machine

/-- RESET (70_reset_and_hazards.md R290). -/
def execReset (s : State) : Result := ifAdmitted .reset s (.next (resetBlock s))

/-- TICK (42_conversion_and_timer.md R162, R163). -/
def execTick (s : State) : Result := ifAdmitted .tick s (.next (tickBlock s))

/-- CONV_DONE d (42_conversion_and_timer.md R160), a spurious one too (R161). -/
def execConvDone (d : Sample) (s : State) : Result :=
  ifAdmitted (.convDone d) s (.next (convDone (operandSample d) s))

end Sys2Proof.Machine
end

