-- ==== Sys2Proof/Machine/Sequencer.lean ====
section
/-! DEFINITION. The meanings of the channel sequencer's micro-operations as single transitions of a UNIT trace
(41_channel_sequencer.md R131, R134, R136). -/

namespace Sys2Proof.Machine

/-- ADVANCE_SIMPLE (R131), in SIMPLE only (30_encoding.md R77). -/
def execAdvanceSimple (s : State) : Result := ifAdmitted .advanceSimple s (.next (advanceSimple s))

/-- NEXT_CHAN (R134), in EXTENDED only. -/
def execNextChan (s : State) : Result := ifAdmitted .nextChan s (.next (nextChan s))

/-- NEXT_MUX (R136), in EXTENDED only. -/
def execNextMux (s : State) : Result := ifAdmitted .nextMux s (.next (nextMux s))

end Sys2Proof.Machine
end

