-- ==== Sys2Proof/Machine/Dispatch.lean ====
section
/-! DEFINITION. One arm per operation (30_encoding.md R71), each a direct call of its meaning. -/

namespace Sys2Proof.Machine

def exec (i : Instr) (s : State) : Host.Outcome State Fault Refusal :=
  match i with
  | .reset => Sys2Proof.Machine.execReset s
  | .tick => Sys2Proof.Machine.execTick s
  | .convDone d => Sys2Proof.Machine.execConvDone d s
  | .startConv => Sys2Proof.Machine.execStartConv s
  | .wake => Sys2Proof.Machine.execWake s
  | .consume => Sys2Proof.Machine.execConsume s
  | .transmit => Sys2Proof.Machine.execTransmit s
  | .pass => Sys2Proof.Machine.execPass s
  | .push d => Sys2Proof.Machine.execPush d s
  | .pop => Sys2Proof.Machine.execPop s
  | .drain => Sys2Proof.Machine.execDrain s
  | .advanceSimple => Sys2Proof.Machine.execAdvanceSimple s
  | .nextChan => Sys2Proof.Machine.execNextChan s
  | .nextMux => Sys2Proof.Machine.execNextMux s

end Sys2Proof.Machine
end

