-- ==== Sys2Proof/Machine/Fetch.lean ====
section
/-! DEFINITION. How a step comes by its operation: the next word of the trace, decoded in the trace's mode and the
configured variant (30_encoding.md R74, R76; log 5), and how a word is placed for the next step (log 6). -/

namespace Sys2Proof.Machine

/-- Takes the next word off the trace and decodes it; the trace's end and a word R74 refuses are refusals. -/
def takeWord (s : State) : Except Refusal (Instr × State) :=
  match s.trace.words with
  | [] => .error .traceEnd
  | w :: rest =>
    match decodeIn s.trace.mode s.cfg.variant w with
    | .error r => .error (.word r)
    | .ok i => .ok (i, s.setTrace { mode := s.trace.mode, words := rest })

/-- The state with `w` as the next word of its trace, in a mode and a variant that have the word's operation (the state's
own where they do). -/
def placeWord (w : Word) (s : State) : State :=
  match decode w with
  | .error _ => s.setTrace { mode := s.trace.mode, words := w :: s.trace.words }
  | .ok i =>
    { s with
      cfg := { s.cfg with variant := i.variantFor s.cfg.variant }
      trace := { mode := i.modeFor s.trace.mode, words := w :: s.trace.words } }

end Sys2Proof.Machine
end

