-- ==== Sys2Proof/Machine/Step.lean ====
section
/-! DEFINITION. One step: the next word of the trace, run. A run is a finite trace (43_scheduler.md R200), and an
execution one total order of atomic transitions (20_memory.md R57). -/

namespace Sys2Proof.Machine

/-- Takes the next trace word and runs its operation as one atomic transition (00_scope.md R11). -/
def step (s : State) : Host.Outcome State Fault Refusal :=
  match takeWord s with
  | .error r => .refused r
  | .ok (i, t) => exec i t

/-- The state with the opcode table's word next in its trace (log 6). -/
def State.withFetchWord (s : State) (nbits w : Nat) : State := placeWord (tableWord nbits w) s

end Sys2Proof.Machine
end

