-- ==== Sys2Proof/Machine/Assembler.lean ====
section
/-! DEFINITION. The assembler syntax of a trace (30_encoding.md R81) and its two pseudo-operations (R82). Surface
conventions R81 leaves open: log 18. -/

namespace Sys2Proof.Machine

/-- The mnemonics of R71. -/
def mnemonic : Instr → String
  | .reset => "RESET"
  | .tick => "TICK"
  | .convDone _ => "CONV_DONE"
  | .startConv => "START_CONV"
  | .wake => "WAKE"
  | .consume => "CONSUME"
  | .transmit => "TRANSMIT"
  | .pass => "PASS"
  | .push _ => "PUSH"
  | .pop => "POP"
  | .drain => "DRAIN"
  | .advanceSimple => "ADVANCE_SIMPLE"
  | .nextChan => "NEXT_CHAN"
  | .nextMux => "NEXT_MUX"

/-- The operations without an operand. -/
def plainOperations : List Instr :=
  [.reset, .tick, .startConv, .wake, .consume, .transmit, .pass, .pop, .drain, .advanceSimple, .nextChan, .nextMux]

/-- `SAMPLE d`: one complete conversion, taken from phase START (R82). -/
def sampleMacro (d : Sample) : List Instr := [.startConv, .convDone d, .wake, .consume]

/-- `TICKS n` (R82): `n` words. DESIGN CHOICE (log 18): `TICKS 0` is no word, since R82 does not say what `n` may be. -/
def ticksMacro (n : Nat) : List Instr := List.replicate n .tick

/-- The value of a digit, hex digits included. -/
def digitValue (c : Char) : Option Nat :=
  if '0' ≤ c ∧ c ≤ '9' then some (c.toNat - 48)
  else if 'a' ≤ c ∧ c ≤ 'f' then some (c.toNat - 87)
  else if 'A' ≤ c ∧ c ≤ 'F' then some (c.toNat - 55)
  else none

/-- The number its remaining digits make in a base. -/
def numberFrom (base : Nat) : Nat → List Char → Option Nat
  | acc, [] => some acc
  | acc, c :: cs =>
    match digitValue c with
    | some d => if d < base then numberFrom base (acc * base + d) cs else none
    | none => none

/-- A decimal or `0x` hex number (R81). -/
def number : List Char → Option Nat
  | [] => none
  | ['0', 'x'] => none
  | '0' :: 'x' :: cs => numberFrom 16 0 cs
  | cs => numberFrom 10 0 cs

/-- A sample operand, in `[0, 65535]` (R81). -/
def sampleOperand (cs : List Char) : Option Sample :=
  match number cs with
  | some n => if n < 65536 then some (BitVec.ofNat 16 n) else none
  | none => none

/-- The line without its comment (R81). -/
def withoutComment (cs : List Char) : List Char := cs.takeWhile (· != ';')

/-- The words between blanks; `cur` is the current one, reversed. -/
def tokensFrom : List Char → List Char → List (List Char)
  | cur, [] => if cur.isEmpty then [] else [cur.reverse]
  | cur, c :: cs =>
    if c = ' ' ∨ c = '\t' then
      if cur.isEmpty then tokensFrom [] cs else cur.reverse :: tokensFrom [] cs
    else tokensFrom (c :: cur) cs

/-- The operations of a mnemonic with an operand. DESIGN CHOICE (log 18): the count of TICKS, whose form R82 leaves open,
is written as R81's numbers are and has no upper bound. -/
def withOperand (m x : List Char) : Option (List Instr) :=
  if m = "PUSH".toList then (sampleOperand x).map fun d => [.push d]
  else if m = "CONV_DONE".toList then (sampleOperand x).map fun d => [.convDone d]
  else if m = "SAMPLE".toList then (sampleOperand x).map sampleMacro
  else if m = "TICKS".toList then (number x).map ticksMacro
  else none

/-- The operations of one line (R81, R82); none for a line that is not one of the syntax. -/
def assembleLine (line : String) : Option (List Instr) :=
  match tokensFrom [] (withoutComment line.toList) with
  | [] => some []
  | [m] => (plainOperations.find? fun i => (mnemonic i).toList == m).map fun i => [i]
  | [m, x] => withOperand m x
  | _ => none

/-- The words of a trace written one operation per line (R81). -/
def assemble : List String → Option (List Word)
  | [] => some []
  | l :: ls =>
    match assembleLine l, assemble ls with
    | some is, some ws => some (is.map encode ++ ws)
    | _, _ => none

end Sys2Proof.Machine
end

