-- ==== Sys2Proof/Machine/Line.lean ====
section
/-! DEFINITION. The wire format of a drained line (44_interfaces.md R226, R227, R229). The serial transport writes it;
the MCS delivers the words. PRESUMED (log 15): the characters are ASCII bytes, as R226 says from general knowledge. -/

namespace Sys2Proof.Machine

/-- The character of a decimal digit. -/
def digitByte (n : Nat) : Byte := BitVec.ofNat 8 (48 + n % 10)

/-- The delimiter after each value. -/
def barByte : Byte := 124

/-- `dec4(v)` (R226): four digits, most significant first; from 10000 on all five (R227). -/
def dec4 (v : Sample) : List Byte :=
  let low := [digitByte (v.toNat / 1000), digitByte (v.toNat / 100), digitByte (v.toNat / 10), digitByte v.toNat]
  if v.toNat < 10000 then low else digitByte (v.toNat / 10000) :: low

/-- `token(v)` (R226). -/
def token (v : Sample) : List Byte := dec4 v ++ [barByte]

/-- The tokens of a line, before NEWLINE (R226, R228). -/
def lineTokens (words : List Sample) : List Byte := words.flatMap token

/-- `line(words)` (R226), ended by the configured NEWLINE (R229). -/
def lineText (c : Config) (words : List Sample) : List Byte := lineTokens words ++ c.newline

end Sys2Proof.Machine
end

