-- ==== Sys2Proof/Machine/Ports.lean ====
section
/-! DEFINITION. The ports of the MCS: the input strobes and the events they are (44_interfaces.md R220), the output levels
as functions of state and the output strobes of each record (R221, R225). -/

namespace Sys2Proof.Machine

/-- The input strobes; `adc_done` comes with `adc_data` (R220). -/
inductive InputStrobe where
  | rst
  | tick
  | adcDone (adcData : Sample)
  deriving DecidableEq, Repr

/-- The transition of a strobe: one strobe, one event (R220). -/
def inputEvent : InputStrobe → Instr
  | .rst => .reset
  | .tick => .tick
  | .adcDone d => .convDone d

/-- The output ports that are levels (R221). -/
structure Levels where
  adcChsel : BitVec 4
  muxA : BitVec 4
  muxB : BitVec 4
  convWait : Bool
  deriving DecidableEq, Repr

/-- The levels a state drives at all times (R221; log 13). -/
def levels (s : State) : Levels :=
  { adcChsel := selChan s
    muxA := s.muxA
    muxB := s.muxB
    convWait := s.phase == .wait }

/-- The lines of a group, first line first, high where the bit is 1 (41_channel_sequencer.md R137). -/
def groupLines (g : BitVec 4) : List Bool := [g.getLsbD 0, g.getLsbD 1, g.getLsbD 2, g.getLsbD 3]

/-- The output strobes (R221). `adcStart` carries the levels the ADC samples at it. -/
inductive OutputStrobe where
  | adcStart (chsel muxA muxB : BitVec 4)
  | drainValid (drainData : Sample)
  | drainEol
  | drainFlush
  deriving DecidableEq, Repr

/-- The strobes a record stands for, in order (R224, R225). A popped value has no port: no port issues a POP (30 R76). -/
def strobesOf : Record → List OutputStrobe
  | .start ch a b => [.adcStart ch a b]
  | .line words => words.map .drainValid ++ [.drainEol]
  | .flush => [.drainFlush]
  | .popped _ => []

end Sys2Proof.Machine
end

