-- ==== Sys2Proof/Safety.lean ====
section
/-! DEFINITION. The terms claims are made in: several operations in a row, the words a stack holds, the invariants of
10_state.md R37 and 41_channel_sequencer.md R144, the sweep's trace, and the comparison of states that differ only in
what no rule observes (40_sample_buffer.md R108, 10_state.md R23). -/

namespace Sys2Proof.Safety

open Sys2Proof.Machine

/-- Goes on from a next state; a fault or a refusal stays. -/
def andThen (r : Result) (k : State → Result) : Result :=
  match r with
  | .next t => k t
  | .fault f => .fault f
  | .refused e => .refused e

/-- Operations in a row, stopping at the first fault or refusal. -/
def execAll : List Instr → State → Result
  | [], s => .next s
  | i :: is, s => andThen (exec i s) (execAll is)

/-- `n` calls of `advance` (41 R138). -/
def advanceN : Nat → State → State
  | 0, s => s
  | n + 1, s => advance (advanceN n s)

/-- `n` calls of NEXT_CHAN (41 R134). -/
def nextChanN : Nat → State → State
  | 0, s => s
  | n + 1, s => nextChan (nextChanN n s)

/-- The word of slot `i`. -/
def slot (s : State) (i : Nat) : Sample := s.stack[i]?.getD 0

/-- The words the stack holds, slot 0 first: `[stack[0], ..., stack[top]]`. -/
def held (s : State) : List Sample := (List.range (depth s)).map (slot s)

/-- `-1 <= top <= CAP-1` (10 R22, R37). -/
abbrev TopInRange (s : State) : Prop := -1 ≤ s.top.toInt ∧ s.top.toInt ≤ (cap s : Int) - 1

/-- The group of the current side shows the side counter (10 R37, 41 R144). -/
abbrev GroupShowsCounter (s : State) : Prop :=
  (s.side = .a ∧ s.muxA = s.mcount) ∨ (s.side = .b ∧ s.muxB = s.mcount)

/-- The sequencer invariants of EXTENDED (41 R144). -/
abbrev SequencerInv (s : State) : Prop :=
  s.cfg.variant = .extended → s.chan.toNat ≤ 9 ∧ s.sub.toNat < holdOf s ∧ GroupShowsCounter s

/-- The tick counter is below its threshold in EXTENDED (10 R28). -/
abbrev TickInv (s : State) : Prop := s.cfg.variant = .extended → s.tickCount < s.cfg.tickThreshold

/-- The fields a variant does not use have their reset values (10 R36, R25, R32). -/
abbrev UnusedInv (s : State) : Prop :=
  (s.cfg.variant = .extended → s.ctr = 0) ∧
  (s.cfg.variant = .simple →
    s.tickCount = 0 ∧ s.chan = 0 ∧ s.sub = 0 ∧ s.mcount = 0 ∧ s.side = .a ∧ s.muxA = 0 ∧ s.muxB = 0 ∧
    s.sweepFlag = false)

/-- A conversion is in flight only in WAIT, and WAIT without one means a sample is ready (10 R37). -/
abbrev WaitInv (s : State) : Prop :=
  (s.convPending = true → s.phase = .wait) ∧
  (s.phase = .wait → s.convPending = false → s.measReady = true)

/-- The invariant of the block in both trace modes. -/
structure BlockInv (s : State) : Prop where
  top : TopInRange s
  sequencer : SequencerInv s
  tick : TickInv s
  unused : UnusedInv s
  wait : WaitInv s

/-- The counter invariants of SYSTEM traces (43 R202, 10 R37), with what makes them inductive: outside XMIT the stack is
not full, since XMIT would have transmitted. -/
structure SystemInv (s : State) : Prop where
  block : BlockInv s
  count : (s.convCount.toNat : Int) = s.top.toInt + 1
  bound : s.convCount.toNat ≤ cap s
  room : s.phase ≠ .xmit → s.convCount.toNat < cap s

/-- Phase-locking (41 R142, R143, R145, R146): the sequencer is at the place of the sweep table that the conversion counter
names. EXTENDED: row `conv_count` of the table (row 34 is row 0 of a later sweep), where rows 0 to 15 leave `mux_b` as the
sweep found it, 0b0000 after reset and 0b1111 later. SIMPLE: the two counters agree modulo 16. -/
def PhaseLocked (s : State) : Prop :=
  let k := s.convCount.toNat
  match s.cfg.variant with
  | .simple => s.ctr.toNat % 16 = k % 16
  | .extended =>
    if k < 16 then
      s.chan = BitVec.ofNat 4 (k / 4) ∧ s.sub = BitVec.ofNat 2 (k % 4) ∧ s.mcount = BitVec.ofNat 4 k ∧ s.side = .a ∧
        s.muxA = BitVec.ofNat 4 k ∧ (s.muxB = 0b0000 ∨ s.muxB = 0b1111)
    else if k < 32 then
      s.chan = BitVec.ofNat 4 (k / 4) ∧ s.sub = BitVec.ofNat 2 (k % 4) ∧ s.mcount = BitVec.ofNat 4 (k - 16) ∧
        s.side = .b ∧ s.muxA = 0b1111 ∧ s.muxB = BitVec.ofNat 4 (k - 16)
    else if k < 34 then
      s.chan = BitVec.ofNat 4 (k - 24) ∧ s.sub = 0 ∧ s.mcount = 15 ∧ s.side = .b ∧ s.muxA = 0b1111 ∧ s.muxB = 0b1111
    else s.chan = 0 ∧ s.sub = 0 ∧ s.mcount = 0 ∧ s.side = .a ∧ s.muxA = 0b0000 ∧ s.muxB = 0b1111

/-- The environment's step is that of a well-behaved ADC (42 R161): a CONV_DONE comes only while a conversion is in
flight. -/
def wellBehaved (i : Instr) (s : State) : Prop :=
  ∀ d, i = .convDone d → s.convPending = true

/-- With a well-behaved ADC a sample is ready only between its conversion and its CONSUME (92 D17). -/
abbrev ReadyInv (s : State) : Prop := s.measReady = true → s.phase = .wait ∨ s.phase = .consume

/-- The state at the beginning of a sweep, in a SYSTEM trace (41 R146, 43 R205): nothing pending, an empty stack, the
sequencer at its start, and in EXTENDED the sweep flag set. -/
structure SweepStart (s : State) : Prop where
  config : s.cfg.wf = true
  mode : s.trace.mode = .system
  phase : s.phase = .start
  empty : s.top = emptyTop
  ready : s.measReady = false
  pending : s.convPending = false
  count : s.convCount = 0
  simple : s.cfg.variant = .simple → s.ctr.toNat % 16 = 0
  extended : s.cfg.variant = .extended →
    s.sweepFlag = true ∧ s.chan = 0 ∧ s.sub = 0 ∧ s.mcount = 0 ∧ s.side = .a ∧ s.muxA = 0

/-- A sweep's trace: SAMPLE for each sample, PASS between them, TRANSMIT at the end (95 P2, P3). -/
def sweepTrace : List Sample → List Instr
  | [] => []
  | [d] => sampleMacro d ++ [.transmit]
  | d :: ds => sampleMacro d ++ [.pass] ++ sweepTrace ds

/-- The `Start` record of conversion `k` of a sweep: the sweep tables of 41 R142 and R143. `a` and `b` are the groups at
the sweep's beginning: SIMPLE never writes them, EXTENDED shows `b` until side B is driven. -/
def sweepStartRecord (v : Variant) (a b : BitVec 4) (k : Nat) : Record :=
  match v with
  | .simple => .start (BitVec.ofNat 4 k) a b
  | .extended =>
    if k < 16 then .start (BitVec.ofNat 4 (k / 4)) (BitVec.ofNat 4 k) b
    else if k < 32 then .start (BitVec.ofNat 4 (k / 4)) 15 (BitVec.ofNat 4 (k - 16))
    else if k = 32 then .start 8 15 15
    else .start 9 15 15

/-- Two states that agree but in the slots above `top` (40 R108). -/
structure AgreeToTop (s t : State) : Prop where
  fields : t.setStack s.stack = s
  slots : ∀ i : Nat, (i : Int) ≤ s.top.toInt → slot s i = slot t i

/-- Two states that agree but in `raw_sample`, and in it too while a sample is ready (10 R23). -/
structure AgreeButRaw (s t : State) : Prop where
  fields : t.setRawSample s.rawSample = s
  raw : s.measReady = true → s.rawSample = t.rawSample

/-- Two outcomes alike: next states related, or the same fault, or the same refusal. -/
def Alike (rel : State → State → Prop) : Result → Result → Prop
  | .next s, .next t => rel s t
  | .fault f, .fault g => f = g
  | .refused e, .refused g => e = g
  | .next _, .fault _ => False
  | .next _, .refused _ => False
  | .fault _, .next _ => False
  | .fault _, .refused _ => False
  | .refused _, .next _ => False
  | .refused _, .fault _ => False

/-- The stack index an operation stores to, computed as its meaning computes it (40 R102, 43 R196). -/
def storesTo (i : Instr) (s : State) : Option (BitVec 7) :=
  match i with
  | .push _ => if isFull s then none else some (s.top + 1)
  | .consume => if isFull s then none else some (s.top + 1)
  | .reset | .tick | .convDone _ | .startConv | .wake | .transmit | .pass | .pop | .drain | .advanceSimple
  | .nextChan | .nextMux => none

end Sys2Proof.Safety
end

