-- ==== Sys2Proof/Certificates/Slice0/Obligations.lean ====
section
/-! DEFINITION. What is claimed of the model, one definition per statement of OBLIGATIONS.json. Each names the rules of
spec/ it formalises. A configuration is one a model accepts (`s.cfg.wf`, 00_scope.md R7 and 93 U3); every statement holds
for both variants and for every TICK_THRESHOLD, SENTINEL and NEWLINE. -/

open Sys2Proof Sys2Proof.Machine Sys2Proof.Safety

/-! ## Encoding (30_encoding.md) -/

/-- R70, R71, R72: the decoder reads back every operation, its operand at every value, from the word the encoder
writes. -/
def Obligations.EncodedOperationsDecode : Prop := ∀ i : Instr, decode (encode i) = .ok i

/-- R70, R80: a word that decodes is the one encoding of what it decodes to. -/
def Obligations.DecodedWordsAreCanonical : Prop := ∀ (w : Word) (i : Instr), decode w = .ok i → encode i = w

/-- R74, with R76 and R77 spelled out in OP codes: the checks of decoding, in the order shown. -/
def Obligations.DecodeChecksInOrder : Prop :=
  ∀ (w : Word) (m : Mode) (v : Variant),
    let op := (w.extractLsb' 28 4).toNat
    let rsv := w.extractLsb' 16 12
    let d := w.extractLsb' 0 16
    let inMode := op = 1 ∨ op = 2 ∨ (m = .system ∧ 3 ≤ op ∧ op ≤ 8) ∨ (m = .unit ∧ 9 ≤ op)
    let inVariant := (op = 12 → v = .simple) ∧ (op = 13 ∨ op = 14 → v = .extended)
    if op = 0 ∨ op = 15 then decodeIn m v w = .error .reservedOp
    else if rsv ≠ 0 then decodeIn m v w = .error .reservedBits
    else if ¬(op = 3 ∨ op = 9) ∧ d ≠ 0 then decodeIn m v w = .error .nonzeroData
    else if ¬inMode then decodeIn m v w = .error .wrongMode
    else if ¬inVariant then decodeIn m v w = .error .wrongVariant
    else ∃ i : Instr, decodeIn m v w = .ok i ∧ i.opcode.toNat = op ∧ i.data = d

/-- R71, R72, R81: words written out from the table decode to their operations. -/
def Obligations.TableWordsDecode : Prop :=
  decode 0x10000000 = .ok .reset ∧ decode 0x20000000 = .ok .tick ∧ decode 0x3000002A = .ok (.convDone 42) ∧
  decode 0x40000000 = .ok .startConv ∧ decode 0x50000000 = .ok .wake ∧ decode 0x60000000 = .ok .consume ∧
  decode 0x70000000 = .ok .transmit ∧ decode 0x80000000 = .ok .pass ∧ decode 0x900000A0 = .ok (.push 160) ∧
  decode 0xA0000000 = .ok .pop ∧ decode 0xB0000000 = .ok .drain ∧ decode 0xC0000000 = .ok .advanceSimple ∧
  decode 0xD0000000 = .ok .nextChan ∧ decode 0xE0000000 = .ok .nextMux

/-- R74, R78 (and log 5): a step takes the trace's next word, runs the operation it decodes to on the state without that
word, and refuses a word the decoder refuses and the end of the trace. -/
def Obligations.StepRunsTheDecodedWord : Prop :=
  ∀ s : State,
    (s.trace.words = [] → step s = .refused .traceEnd) ∧
    ∀ (w : Word) (rest : List Word), s.trace.words = w :: rest →
      (∀ r, decodeIn s.trace.mode s.cfg.variant w = .error r → step s = .refused (.word r)) ∧
      (∀ i, decodeIn s.trace.mode s.cfg.variant w = .ok i →
        step s = exec i { s with trace := { mode := s.trace.mode, words := rest } })

/-- R76, R77 (log 14): outside its trace mode an operation is refused with WrongMode, and in its mode but outside its
variant with WrongVariant. -/
def Obligations.OperationsStayInModeAndVariant : Prop :=
  ∀ (i : Instr) (s : State), s.cfg.wf = true →
    (s.trace.mode = .system → i.opClass = .microOperation → exec i s = .refused (.word .wrongMode)) ∧
    (s.trace.mode = .unit → i.opClass = .controllerAction → exec i s = .refused (.word .wrongMode)) ∧
    (s.trace.mode = .unit → (∃ d, i = .convDone d) → exec i s = .refused (.word .wrongMode)) ∧
    (s.trace.mode = .unit → s.cfg.variant = .extended → i = .advanceSimple →
      exec i s = .refused (.word .wrongVariant)) ∧
    (s.trace.mode = .unit → s.cfg.variant = .simple → i = .nextChan ∨ i = .nextMux →
      exec i s = .refused (.word .wrongVariant))

/-- 93 U3 and U17, R7: a configuration that breaks an equality of R7, or has threshold 0 in EXTENDED, is ill formed, and
a block with an ill-formed configuration runs nothing (log 16). -/
def Obligations.IllFormedConfigurationsAreRefused : Prop :=
  (∀ (p : Params) (c : Config), c.variant = .extended →
    (p.nmux * p.hold + (p.nchanExt - p.nmux) * p.refHold ≠ p.cap ∨ p.nmux * p.hold ≠ 2 * p.muxPeriod ∨
      c.tickThreshold = 0) → c.wfWith p = false) ∧
  (∀ c : Config, c.wf = true ↔ (c.variant = .extended → 1 ≤ c.tickThreshold)) ∧
  (∀ (i : Instr) (s : State), s.cfg.wf = false → exec i s = .refused .illFormedConfig)

/-! ## The sample buffer (40_sample_buffer.md) -/

/-- R100, R101: the predicates on the index, never both true. -/
def Obligations.EmptyAndFullReadTheIndex : Prop :=
  ∀ s : State,
    (isEmpty s = true ↔ s.top.toInt = -1) ∧
    (isFull s = true ↔ s.top.toInt = (cap s : Int) - 1) ∧
    ¬(isEmpty s = true ∧ isFull s = true)

/-- R102, R106: PUSH appends if not full, else discards and changes nothing. -/
def Obligations.PushAppendsOrDiscards : Prop :=
  ∀ (s : State) (d : Sample), s.cfg.wf = true →
    encode (.push d) = (0x9 : BitVec 4) ++ ((0 : BitVec 12) ++ d) ∧
    (s.trace.mode = .system → exec (.push d) s = .refused (.word .wrongMode)) ∧
    (s.trace.mode = .unit → isFull s = true → exec (.push d) s = .next s) ∧
    (s.trace.mode = .unit → isFull s = false → TopInRange s →
      exec (.push d) s =
        .next { s with top := s.top + 1, stack := s.stack.setIfInBounds (s.top.toInt + 1).toNat d })

/-- R103: POP removes and returns the last pushed value, or the sentinel on the empty stack; no slot is cleared. -/
def Obligations.PopRemovesTheLastOrReturnsSentinel : Prop :=
  ∀ s : State, s.cfg.wf = true →
    encode .pop = 0xA0000000 ∧
    (s.trace.mode = .system → exec .pop s = .refused (.word .wrongMode)) ∧
    (s.trace.mode = .unit → isEmpty s = true →
      exec .pop s = .next { s with out := s.out ++ [.popped s.cfg.sentinel] }) ∧
    (s.trace.mode = .unit → isEmpty s = false → TopInRange s →
      exec .pop s =
        .next { s with top := s.top - 1, out := s.out ++ [.popped (slot s s.top.toInt.toNat)] })

/-- R104: DRAIN empties the stack into one line, last pushed first, and a flush. -/
def Obligations.DrainEmitsTheStackReversed : Prop :=
  ∀ s : State, s.cfg.wf = true →
    encode .drain = 0xB0000000 ∧
    (s.trace.mode = .system → exec .drain s = .refused (.word .wrongMode)) ∧
    (s.trace.mode = .unit → TopInRange s →
      ((held s).length : Int) = s.top.toInt + 1 ∧
      exec .drain s =
        .next { s with top := -1, out := s.out ++ [.line (held s).reverse, .flush] })

/-- R105: after pushes that do not overflow, as many POPs return the values in reverse and restore the index. -/
def Obligations.PopsReturnPushesInReverse : Prop :=
  ∀ (s : State) (vs : List Sample), s.cfg.wf = true → s.trace.mode = .unit → TopInRange s →
    s.top.toInt + vs.length ≤ (cap s : Int) - 1 →
    ∃ t : State,
      execAll (vs.map .push ++ List.replicate vs.length .pop) s = .next t ∧
      t.out = s.out ++ vs.reverse.map .popped ∧ t.top = s.top

/-- R107: CAP POPs empty the stack, and a POP of the empty stack emits the sentinel and changes nothing else, however
often it is repeated. -/
def Obligations.PopsOfTheEmptyStackAreIdempotent : Prop :=
  ∀ s : State, s.cfg.wf = true → s.trace.mode = .unit →
    (TopInRange s → ∃ t : State, execAll (List.replicate (cap s) .pop) s = .next t ∧ isEmpty t = true) ∧
    (∀ n : Nat, isEmpty s = true →
      execAll (List.replicate n .pop) s =
        .next { s with out := s.out ++ List.replicate n (.popped s.cfg.sentinel) })

/-- R109: after a DRAIN the stack is empty, and a second DRAIN emits an empty line and a flush. -/
def Obligations.DrainMovesTheStackOut : Prop :=
  ∀ s : State, s.cfg.wf = true → s.trace.mode = .unit → TopInRange s →
    ∃ t u : State,
      exec .drain s = .next t ∧ isEmpty t = true ∧ exec .drain t = .next u ∧
      u = { t with out := t.out ++ [.line [], .flush] }

/-- R108: no operation observes a slot above `top`. -/
def Obligations.SlotsAboveTopAreUnobservable : Prop :=
  ∀ (i : Instr) (s t : State), AgreeToTop s t → Alike AgreeToTop (exec i s) (exec i t)

/-- R108, R102 to R104: the stack is the list of the words it holds; PUSH appends, POP takes the last, DRAIN takes all in
reverse. -/
def Obligations.StackIsAListOfSamples : Prop :=
  ∀ s : State, s.cfg.wf = true → s.trace.mode = .unit → TopInRange s →
    (∀ d : Sample, ∃ t : State, exec (.push d) s = .next t ∧
      held t = if (held s).length < cap s then held s ++ [d] else held s) ∧
    (∃ t : State, exec .pop s = .next t ∧ held t = (held s).dropLast ∧
      t.out = s.out ++ [.popped ((held s).getLast?.getD s.cfg.sentinel)]) ∧
    (∃ t : State, exec .drain s = .next t ∧ held t = [] ∧ t.out = s.out ++ [.line (held s).reverse, .flush])

/-- Log 8 (the model's choice in states no run reaches): PUSH, POP and DRAIN stop at an index outside the stack. -/
def Obligations.StackOperationsFaultOutsideTheStack : Prop :=
  ∀ s : State, s.cfg.wf = true → s.trace.mode = .unit → ¬TopInRange s →
    (∀ d : Sample, exec (.push d) s = .fault (.stackIndex (s.top + 1))) ∧
    exec .pop s = .fault (.stackIndex s.top) ∧
    exec .drain s = .fault (.stackIndex s.top)

/-- The stack's frame (R50, R102, R103, R108, 43 R196): an operation that answers a next state leaves every slot as it
reads, but the one it stores to. -/
def Obligations.OperationsKeepOtherSlots : Prop :=
  ∀ (i : Instr) (s t : State) (a : BitVec 7), exec i s = .next t → storesTo i s ≠ some a →
    stackRead a t = stackRead a s

/-! ## The channel sequencer (41_channel_sequencer.md) -/

/-- R131: ADVANCE_SIMPLE increments the 8-bit counter; the channel goes on by one, round the 16. -/
def Obligations.AdvanceSimpleCounts : Prop :=
  ∀ s : State, s.cfg.wf = true →
    encode .advanceSimple = 0xC0000000 ∧
    (s.trace.mode = .system → exec .advanceSimple s = .refused (.word .wrongMode)) ∧
    (s.trace.mode = .unit → s.cfg.variant = .extended →
      exec .advanceSimple s = .refused (.word .wrongVariant)) ∧
    (s.trace.mode = .unit → s.cfg.variant = .simple →
      exec .advanceSimple s = .next { s with ctr := s.ctr + 1 } ∧
      selChan { s with ctr := s.ctr + 1 } = selChan s + 1)

/-- R132 and R135, 10 R33, 44 R221: the channel select and the output levels. That `conv_wait` is high in all of WAIT is
the model's reading (log 13, DEDUCED: R221 against 60 R262). -/
def Obligations.ChannelSelectFollowsState : Prop :=
  ∀ s : State,
    (s.cfg.variant = .simple →
      selChan s = s.ctr.extractLsb' 0 4 ∧ (selChan s).toNat = s.ctr.toNat % 16) ∧
    (s.cfg.variant = .extended → selChan s = s.chan) ∧
    levels s = { adcChsel := selChan s, muxA := s.muxA, muxB := s.muxB, convWait := decide (s.phase = .wait) }

/-- R133: the hold counts. -/
def Obligations.HoldCountsByChannel : Prop :=
  ∀ s : State, holdOf s = if s.chan.toNat < 8 then 4 else 1

/-- R134: NEXT_CHAN. In sequencer states no run reaches (`chan` above 9, `sub` not below `hold_of`) it is the model's choice
to apply the pseudocode (log 9; R134 and 93 U16 allow either). -/
def Obligations.NextChanHoldsThenAdvances : Prop :=
  ∀ s : State, s.cfg.wf = true →
    encode .nextChan = 0xD0000000 ∧
    (s.trace.mode = .system → exec .nextChan s = .refused (.word .wrongMode)) ∧
    (s.trace.mode = .unit → s.cfg.variant = .simple → exec .nextChan s = .refused (.word .wrongVariant)) ∧
    (s.trace.mode = .unit → s.cfg.variant = .extended →
      exec .nextChan s =
        .next (if s.sub.toNat + 1 = (if s.chan.toNat < 8 then 4 else 1)
          then { s with sub := 0, chan := BitVec.ofNat 4 ((s.chan.toNat + 1) % 10) }
          else { s with sub := s.sub + 1 }))

/-- R136: NEXT_MUX, increment then drive; a no-op on the reference channels. -/
def Obligations.NextMuxCountsThenDrives : Prop :=
  ∀ s : State, s.cfg.wf = true →
    encode .nextMux = 0xE0000000 ∧
    (s.trace.mode = .system → exec .nextMux s = .refused (.word .wrongMode)) ∧
    (s.trace.mode = .unit → s.cfg.variant = .simple → exec .nextMux s = .refused (.word .wrongVariant)) ∧
    (s.trace.mode = .unit → s.cfg.variant = .extended →
      exec .nextMux s =
        .next (if 8 ≤ s.chan.toNat then s
          else if s.mcount = 15 then
            (if s.side = .a then { s with mcount := 0, side := .b, muxB := 0 }
              else { s with mcount := 0, side := .a, muxA := 0 })
          else
            (if s.side = .a then { s with mcount := s.mcount + 1, muxA := s.mcount + 1 }
              else { s with mcount := s.mcount + 1, muxB := s.mcount + 1 })))

/-- R138, R130, R131, R134, R136: the composite step of the controller is ADVANCE_SIMPLE, or NEXT_CHAN and then NEXT_MUX,
and it writes the sequencer's fields only. -/
def Obligations.AdvanceIsChannelThenMux : Prop :=
  ∀ s : State,
    (s.cfg.wf = true → s.trace.mode = .unit → s.cfg.variant = .simple →
      exec .advanceSimple s = .next (advance s)) ∧
    (s.cfg.wf = true → s.trace.mode = .unit → s.cfg.variant = .extended →
      execAll [.nextChan, .nextMux] s = .next (advance s)) ∧
    (s.cfg.variant = .simple → advance s = { s with ctr := s.ctr + 1 }) ∧
    (s.cfg.variant = .extended →
      advance s =
        { s with
          chan := (advance s).chan, sub := (advance s).sub, mcount := (advance s).mcount, side := (advance s).side,
          muxA := (advance s).muxA, muxB := (advance s).muxB })

/-- R139: from sub-count 0 a multiplexed channel is left after exactly 4 advances, a reference channel after 1. -/
def Obligations.ChannelLeftAfterItsHold : Prop :=
  ∀ s : State, s.cfg.variant = .extended → s.sub = 0 →
    (s.chan.toNat < 8 →
      (advanceN 1 s).chan = s.chan ∧ (advanceN 2 s).chan = s.chan ∧ (advanceN 3 s).chan = s.chan ∧
      (advanceN 4 s).chan = s.chan + 1) ∧
    (s.chan = 8 → (advanceN 1 s).chan = 9) ∧
    (s.chan = 9 → (advanceN 1 s).chan = 0)

/-- R140 (90 C1): the channel counter's period is 34 calls of NEXT_CHAN and takes the ten channels. -/
def Obligations.ChannelPeriodIsThirtyFour : Prop :=
  ∀ s : State, s.cfg.variant = .extended → s.chan = 0 → s.sub = 0 →
    (nextChanN 32 s).chan = 8 ∧ (nextChanN 33 s).chan = 9 ∧ nextChanN 34 s = s ∧
    (∀ n : Nat, 0 < n → n < 34 → nextChanN n s ≠ s) ∧
    (∀ c : Nat, c ≤ 9 → ∃ n : Nat, n < 34 ∧ (nextChanN n s).chan = BitVec.ofNat 4 c) ∧
    (∀ n : Nat, (nextChanN n s).chan.toNat ≤ 9)

/-- R141, R137: after a NEXT_MUX that is not a no-op the driven group shows the counter, bit 0 on its first line, and the
increment to 16 makes it 0 and flips the side. -/
def Obligations.DrivenGroupShowsTheCounter : Prop :=
  ∀ s : State, s.cfg.wf = true → s.trace.mode = .unit → s.cfg.variant = .extended → s.chan.toNat < 8 →
    ∃ t : State, exec .nextMux s = .next t ∧ GroupShowsCounter t ∧
      groupLines (if t.side = .a then t.muxA else t.muxB) =
        [t.mcount.getLsbD 0, t.mcount.getLsbD 1, t.mcount.getLsbD 2, t.mcount.getLsbD 3] ∧
      t.mcount.toNat = (s.mcount.toNat + 1) % 16 ∧
      (s.mcount = 15 → t.side = otherSide s.side) ∧ (s.mcount ≠ 15 → t.side = s.side)

/-- R145: from the reset sequencer the state after `n` advances depends on `n mod 34` only (`mux_b` from the 32nd on);
in SIMPLE the channel depends on `n mod 16` only. -/
def Obligations.SequencerIsPeriodic : Prop :=
  ∀ (s : State) (n m : Nat),
    (s.cfg.variant = .extended → s.chan = 0 → s.sub = 0 → s.mcount = 0 → s.side = .a → s.muxA = 0 → s.muxB = 0 →
      n % 34 = m % 34 →
      (advanceN n s).chan = (advanceN m s).chan ∧ (advanceN n s).sub = (advanceN m s).sub ∧
      (advanceN n s).mcount = (advanceN m s).mcount ∧ (advanceN n s).side = (advanceN m s).side ∧
      (advanceN n s).muxA = (advanceN m s).muxA ∧
      (32 ≤ n → 32 ≤ m → (advanceN n s).muxB = (advanceN m s).muxB)) ∧
    (s.cfg.variant = .simple → s.ctr = 0 → n % 16 = m % 16 →
      selChan (advanceN n s) = selChan (advanceN m s))

/-! ## Events (42_conversion_and_timer.md, 70_reset_and_hazards.md) -/

/-- R290: RESET, in every state and both trace modes. -/
def Obligations.ResetClearsAllButSamples : Prop :=
  ∀ s : State, s.cfg.wf = true →
    encode .reset = 0x10000000 ∧
    exec .reset s =
      .next { s with
        phase := .start, top := -1, measReady := false, sweepFlag := false, convPending := false, convCount := 0,
        tickCount := 0, ctr := 0, chan := 0, sub := 0, mcount := 0, side := .a, muxA := 0b0000, muxB := 0b0000 }

/-- R36, R291: power-on is RESET: a block's initial state is what RESET leaves, with some stack and `raw_sample` and an
empty output trace; `State.reset` is one such state. -/
def Obligations.PowerOnIsReset : Prop :=
  (∀ (s : State) (c : Config) (tr : Trace), c.wf = true → s.cfg = c → s.trace = tr →
    ∃ t : State, exec .reset s = .next t ∧
      State.powerOn c tr =
        { t with stack := (State.powerOn c tr).stack, rawSample := (State.powerOn c tr).rawSample, out := [] }) ∧
  (∃ (c : Config) (tr : Trace), c.wf = true ∧ State.reset = State.powerOn c tr)

/-- R160: CONV_DONE, in every state of a SYSTEM trace, with or without a conversion in flight. -/
def Obligations.ConvDoneLatchesTheSample : Prop :=
  ∀ (s : State) (d : Sample), s.cfg.wf = true →
    encode (.convDone d) = (0x3 : BitVec 4) ++ ((0 : BitVec 12) ++ d) ∧
    (s.trace.mode = .unit → exec (.convDone d) s = .refused (.word .wrongMode)) ∧
    (s.trace.mode = .system →
      exec (.convDone d) s = .next { s with rawSample := d, measReady := true, convPending := false } ∧
      (s.phase = .wait →
        ctlNext { s with rawSample := d, measReady := true, convPending := false } = some .wake))

/-- R162: TICK in EXTENDED, in both trace modes; a threshold of 0 is ill formed. -/
def Obligations.TickCountsToTheThreshold : Prop :=
  ∀ s : State, s.cfg.variant = .extended →
    encode .tick = 0x20000000 ∧
    (s.cfg.tickThreshold = 0 → s.cfg.wf = false) ∧
    (s.tickCount + 1 = s.cfg.tickThreshold →
      exec .tick s = .next { s with tickCount := 0, sweepFlag := true }) ∧
    (s.tickCount + 1 < s.cfg.tickThreshold →
      exec .tick s = .next { s with tickCount := s.tickCount + 1 })

/-- R163: TICK in SIMPLE. -/
def Obligations.TickDoesNothingInSimple : Prop :=
  ∀ s : State, s.cfg.variant = .simple → encode .tick = 0x20000000 ∧ exec .tick s = .next s

/-- R164: the cadence law. From a tick count of 0, `n` TICKs leave `n mod T`; a TICK taken there sets a clear flag
exactly when it is the `j*T`-th; TRANSMIT clears the flag; no other operation but RESET writes the tick count. -/
def Obligations.TicksSetTheFlagEveryThreshold : Prop :=
  (∀ (s : State) (n : Nat), s.cfg.wf = true → s.cfg.variant = .extended → s.tickCount = 0 →
    ∃ t : State, execAll (ticksMacro n) s = .next t ∧
      t.tickCount = n % s.cfg.tickThreshold ∧
      t.sweepFlag = (s.sweepFlag || decide (s.cfg.tickThreshold ≤ n)) ∧
      ∀ u v : State, u.cfg = s.cfg → u.tickCount = t.tickCount → u.sweepFlag = false → exec .tick u = .next v →
        (v.sweepFlag = true ↔ s.cfg.tickThreshold ∣ n + 1)) ∧
  (∀ s t : State, exec .transmit s = .next t → t.sweepFlag = false) ∧
  (∀ (i : Instr) (s t : State), exec i s = .next t → i ≠ .tick → i ≠ .reset → t.tickCount = s.tickCount)

/-! ## The controller (42_conversion_and_timer.md, 43_scheduler.md) -/

/-- R192, R193, R194: the guards. -/
def Obligations.GuardsReadTheState : Prop :=
  ∀ s : State,
    (startGuard s = true ↔ s.measReady = false ∧ s.convPending = false ∧ isFull s = false ∧
      (s.cfg.variant = .simple ∨ s.sweepFlag = true)) ∧
    (consumeGuard s = true ↔ s.measReady = true) ∧
    (s.cfg.variant = .simple → (xmitGuard s = true ↔ isFull s = true)) ∧
    (s.cfg.variant = .extended → (xmitGuard s = true ↔ s.convCount = 34))

/-- R195 and R79: the rows of `ctl_next`, and a controller word of a SYSTEM trace runs only if it is `ctl_next`. -/
def Obligations.ControllerTakesItsOneAction : Prop :=
  ∀ s : State,
    (s.phase = .start → startGuard s = true → ctlNext s = some .startConv) ∧
    (s.phase = .start → startGuard s = false → (consumeGuard s = true ∨ xmitGuard s = true) →
      ctlNext s = some .pass) ∧
    (s.phase = .start → startGuard s = false → consumeGuard s = false → xmitGuard s = false → ctlNext s = none) ∧
    (s.phase = .wait → s.convPending = false → ctlNext s = some .wake) ∧
    (s.phase = .wait → s.convPending = true → ctlNext s = none) ∧
    (s.phase = .consume → consumeGuard s = true → ctlNext s = some .consume) ∧
    (s.phase = .consume → consumeGuard s = false → ctlNext s = some .pass) ∧
    (s.phase = .xmit → xmitGuard s = true → ctlNext s = some .transmit) ∧
    (s.phase = .xmit → xmitGuard s = false → ctlNext s = some .pass) ∧
    (∀ a : CtlAction, s.cfg.wf = true → s.trace.mode = .system → TopInRange s →
      (ctlNext s = some a → ∃ t, exec a.instr s = .next t) ∧
      (ctlNext s ≠ some a → exec a.instr s = .refused .notEnabled))

/-- R165: START_CONV. -/
def Obligations.StartConvStartsAndWaits : Prop :=
  ∀ s : State, s.cfg.wf = true →
    encode .startConv = 0x40000000 ∧
    (s.trace.mode = .unit → exec .startConv s = .refused (.word .wrongMode)) ∧
    (s.trace.mode = .system → s.phase = .start → startGuard s = true →
      exec .startConv s =
        .next { s with
          out := s.out ++ [.start (selChan s) s.muxA s.muxB], convPending := true, phase := .wait }) ∧
    (s.trace.mode = .system → ¬(s.phase = .start ∧ startGuard s = true) →
      exec .startConv s = .refused .notEnabled)

/-- R166: WAKE. -/
def Obligations.WakeEndsTheWait : Prop :=
  ∀ s : State, s.cfg.wf = true →
    encode .wake = 0x50000000 ∧
    (s.trace.mode = .unit → exec .wake s = .refused (.word .wrongMode)) ∧
    (s.trace.mode = .system → s.phase = .wait → s.convPending = false →
      exec .wake s = .next { s with phase := .consume }) ∧
    (s.phase = .wait → s.convPending = true → ctlNext s = none) ∧
    (s.trace.mode = .system → ¬(s.phase = .wait ∧ s.convPending = false) →
      exec .wake s = .refused .notEnabled)

/-- R196: CONSUME: `advance` (R138), PUSH of the raw sample (dropped but counted on a full stack), count, clear, XMIT. -/
def Obligations.ConsumeBuffersOneSample : Prop :=
  ∀ s : State, s.cfg.wf = true →
    encode .consume = 0x60000000 ∧
    (s.trace.mode = .unit → exec .consume s = .refused (.word .wrongMode)) ∧
    (s.trace.mode = .system → s.phase = .consume → s.measReady = true → isFull s = true →
      exec .consume s =
        .next { advance s with convCount := s.convCount + 1, measReady := false, phase := .xmit }) ∧
    (s.trace.mode = .system → s.phase = .consume → s.measReady = true → isFull s = false → TopInRange s →
      exec .consume s =
        .next { advance s with
          top := s.top + 1, stack := s.stack.setIfInBounds (s.top.toInt + 1).toNat s.rawSample,
          convCount := s.convCount + 1, measReady := false, phase := .xmit }) ∧
    (s.trace.mode = .system → ¬(s.phase = .consume ∧ s.measReady = true) →
      exec .consume s = .refused .notEnabled)

/-- R197: TRANSMIT. -/
def Obligations.TransmitDrainsAndCloses : Prop :=
  ∀ s : State, s.cfg.wf = true →
    encode .transmit = 0x70000000 ∧
    (s.trace.mode = .unit → exec .transmit s = .refused (.word .wrongMode)) ∧
    (s.trace.mode = .system → s.phase = .xmit → xmitGuard s = true → TopInRange s →
      exec .transmit s =
        .next { s with
          top := -1, out := s.out ++ [.line (held s).reverse, .flush], convCount := 0, sweepFlag := false,
          phase := .start }) ∧
    (s.trace.mode = .system → ¬(s.phase = .xmit ∧ xmitGuard s = true) →
      exec .transmit s = .refused .notEnabled)

/-- R198: PASS; in START only with a guard of a later phase. -/
def Obligations.PassGoesToTheNextPhase : Prop :=
  ∀ s : State, s.cfg.wf = true →
    encode .pass = 0x80000000 ∧
    (s.trace.mode = .unit → exec .pass s = .refused (.word .wrongMode)) ∧
    (s.trace.mode = .system → ctlNext s = some .pass →
      (s.phase = .start →
        (consumeGuard s = true ∨ xmitGuard s = true) ∧ exec .pass s = .next { s with phase := .consume }) ∧
      (s.phase = .consume → exec .pass s = .next { s with phase := .xmit }) ∧
      (s.phase = .xmit → exec .pass s = .next { s with phase := .start }) ∧
      s.phase ≠ .wait) ∧
    (s.trace.mode = .system → ctlNext s ≠ some .pass → exec .pass s = .refused .notEnabled)

/-- R75, R195: at most one controller action runs in any state. -/
def Obligations.AtMostOneControllerActionRuns : Prop :=
  ∀ (a b : CtlAction) (s t u : State), exec a.instr s = .next t → exec b.instr s = .next u → a = b

/-- R167: in WAIT with a conversion in flight the controller has no step, whatever happens but CONV_DONE and RESET leaves
it waiting, CONV_DONE ends the wait, and RESET resets the block. -/
def Obligations.OnlyConvDoneOrResetEndsTheWait : Prop :=
  ∀ s : State, s.phase = .wait → s.convPending = true →
    ctlNext s = none ∧
    (∀ (i : Instr) (t : State), exec i s = .next t → i ≠ .reset → (∀ d, i ≠ .convDone d) →
      t.phase = .wait ∧ t.convPending = true) ∧
    (∀ (d : Sample) (t : State), exec (.convDone d) s = .next t →
      t.convPending = false ∧ t.phase = .wait ∧ ctlNext t = some .wake) ∧
    (∀ t : State, exec .reset s = .next t → t.convPending = false ∧ t.phase = .start)

/-- R191: a TICK can turn the start guard on, never off, and changes no other guard. -/
def Obligations.TickOnlyEnablesTheStart : Prop :=
  ∀ s t : State, exec .tick s = .next t →
    (startGuard s = true → startGuard t = true) ∧ consumeGuard t = consumeGuard s ∧ xmitGuard t = xmitGuard s

/-- R60, R24, R25: each latch has one setting event and one clearing action, RESET apart. -/
def Obligations.LatchesHaveOneSetterAndOneClearer : Prop :=
  ∀ (i : Instr) (s t : State), exec i s = .next t →
    (s.measReady = false → t.measReady = true → ∃ d, i = .convDone d) ∧
    (s.measReady = true → t.measReady = false → i = .consume ∨ i = .reset) ∧
    (s.sweepFlag = false → t.sweepFlag = true → i = .tick ∧ s.cfg.variant = .extended) ∧
    (s.sweepFlag = true → t.sweepFlag = false → i = .transmit ∨ i = .reset)

/-- R205, R206: in EXTENDED a conversion starts only with the sweep flag set, and once TRANSMIT has cleared it the
controller is idle; in SIMPLE the next sweep starts at once. Nothing is pending in either case. -/
def Obligations.SweepsAreGatedByTheFlag : Prop :=
  (∀ s t : State, exec .startConv s = .next t → s.cfg.variant = .extended → s.sweepFlag = true) ∧
  (∀ s t : State, exec .transmit s = .next t → s.measReady = false → s.convPending = false →
    ctlNext t = if s.cfg.variant = .extended then none else some .startConv)

/-- R82 with R165, R160, R166, R196: SAMPLE d from START converts on the channel and lines of the state it starts in,
buffers d, advances the sequencer once and ends in XMIT. -/
def Obligations.SampleRunsOneConversion : Prop :=
  ∀ (s : State) (d : Sample), s.cfg.wf = true → s.trace.mode = .system → s.phase = .start → startGuard s = true →
    TopInRange s →
    ∃ t : State, execAll (sampleMacro d) s = .next t ∧
      t.phase = .xmit ∧ t.measReady = false ∧ t.convPending = false ∧ t.convCount = s.convCount + 1 ∧
      held t = held s ++ [d] ∧ t.out = s.out ++ [.start (selChan s) s.muxA s.muxB] ∧
      t.ctr = (advance s).ctr ∧ t.chan = (advance s).chan ∧ t.sub = (advance s).sub ∧
      t.mcount = (advance s).mcount ∧ t.side = (advance s).side ∧ t.muxA = (advance s).muxA ∧
      t.muxB = (advance s).muxB

/-- R142, R143, R146, R203, R204: a sweep of CAP conversions, whatever the samples and wherever TICKs come between its
operations, emits the Start records of the sweep table and one line of the samples, last first, and leaves the block where
a sweep begins. And in every phase-locked state of a SYSTEM trace, so after any interleaving of events and controller steps
(`EverySystemStepKeepsTheCounters`), START_CONV emits the table's record for `conv_count` and TRANSMIT a line of CAP
words. -/
def Obligations.ASweepTransmitsItsSamplesReversed : Prop :=
  (∀ (s : State) (ds : List Sample) (is : List Instr), SweepStart s → ds.length = cap s →
    (is ++ [Instr.transmit]).filter (fun i => i != Instr.tick) = sweepTrace ds →
    ∃ t : State, execAll (is ++ [.transmit]) s = .next t ∧
      t.out = s.out ++ (List.range (cap s)).map (sweepStartRecord s.cfg.variant s.muxA s.muxB)
        ++ [.line ds.reverse, .flush] ∧
      t.phase = .start ∧ t.top = -1 ∧ t.convCount = 0 ∧ t.sweepFlag = false ∧ t.measReady = false ∧
      t.convPending = false ∧
      (s.cfg.variant = .simple → selChan t = 0 ∧ t.muxA = s.muxA ∧ t.muxB = s.muxB) ∧
      (s.cfg.variant = .extended →
        t.chan = 0 ∧ t.sub = 0 ∧ t.mcount = 0 ∧ t.side = .a ∧ t.muxA = 0b0000 ∧ t.muxB = 0b1111)) ∧
  (∀ s t : State, SystemInv s → PhaseLocked s → exec .startConv s = .next t →
    t.out = s.out ++ [sweepStartRecord s.cfg.variant s.muxA s.muxB s.convCount.toNat]) ∧
  (∀ s t : State, SystemInv s → PhaseLocked s → exec .transmit s = .next t →
    (held s).length = cap s ∧ t.out = s.out ++ [.line (held s).reverse, .flush])

/-! ## Invariants and whole-machine rules -/

/-- R22, R28, R36, R37, R144: the block's invariant is kept by every step of either trace mode. -/
def Obligations.EveryStepKeepsTheBlockInvariant : Prop :=
  ∀ s t : State, BlockInv s → step s = .next t → BlockInv t

/-- R202, R37 (log 12), and R142, R143, R146: in a SYSTEM trace, whatever the next word, the conversion counter is the
number of buffered samples, at most CAP, and the sequencer stays at the place of the sweep table it names. -/
def Obligations.EverySystemStepKeepsTheCounters : Prop :=
  ∀ s t : State, s.trace.mode = .system → SystemInv s → step s = .next t →
    SystemInv t ∧ t.trace.mode = .system ∧ (PhaseLocked s → PhaseLocked t)

/-- R37, R144, R146, R202: the invariants hold after reset, of every accepted configuration and every trace. -/
def Obligations.InvariantsHoldAtReset : Prop :=
  (∀ (c : Config) (tr : Trace), c.wf = true →
    SystemInv (State.powerOn c tr) ∧ ReadyInv (State.powerOn c tr) ∧ PhaseLocked (State.powerOn c tr)) ∧
  SystemInv State.reset ∧ ReadyInv State.reset ∧ PhaseLocked State.reset

/-- 92 D17, R191: with a well-behaved ADC a sample is ready only in WAIT or CONSUME. -/
def Obligations.WellBehavedAdcKeepsSamplesOrdered : Prop :=
  ∀ (i : Instr) (s t : State), WaitInv s → ReadyInv s → wellBehaved i s → exec i s = .next t →
    WaitInv t ∧ ReadyInv t

/-- R199: with a well-behaved ADC the controller is idle in START exactly in EXTENDED with the sweep flag clear. -/
def Obligations.IdleExactlyBetweenSweeps : Prop :=
  ∀ s : State, SystemInv s → ReadyInv s → s.phase = .start →
    (ctlNext s = none ↔ s.cfg.variant = .extended ∧ s.sweepFlag = false)

/-- R250: no operation raises an exception; with the index in range no step faults. -/
def Obligations.NothingFaultsWithinTheStack : Prop :=
  ∀ s : State, TopInRange s →
    (∀ (i : Instr) (f : Fault), exec i s ≠ .fault f) ∧ (∀ f : Fault, step s ≠ .fault f)

/-- R34, R57 (log 3, log 5): no operation writes the configuration or the trace, and each only adds to the output
trace. -/
def Obligations.OperationsOnlyAddToTheOutput : Prop :=
  ∀ (i : Instr) (s t : State), exec i s = .next t →
    t.cfg = s.cfg ∧ t.trace = s.trace ∧ ∃ rs : List Record, t.out = s.out ++ rs

/-- R23: `raw_sample` is not observed unless a sample is ready. -/
def Obligations.RawSampleIsUnobservableUntilReady : Prop :=
  ∀ (i : Instr) (s t : State), AgreeButRaw s t → Alike AgreeButRaw (exec i s) (exec i t)

/-- R32, R130: in SIMPLE nothing but RESET writes the multiplexer lines. -/
def Obligations.SimpleNeverDrivesTheMultiplexer : Prop :=
  ∀ (i : Instr) (s t : State), s.cfg.variant = .simple → exec i s = .next t → i ≠ .reset →
    t.muxA = s.muxA ∧ t.muxB = s.muxB

/-! ## The line (44_interfaces.md) -/

/-- R225: the strobes of a DRAIN: one per popped word in pop order, then end of line, then flush. -/
def Obligations.DrainStrobesTheWordsThenEolThenFlush : Prop :=
  ∀ s t : State, TopInRange s → exec .drain s = .next t →
    (t.out.drop s.out.length).flatMap strobesOf =
      (held s).reverse.map .drainValid ++ [.drainEol, .drainFlush]

/-- R226, R227: a token is the value's decimal digits, four, or five from 10000 on, and the bar. Their bytes are the model's
presumption (log 15, PRESUMED: ASCII, which R226 has from general knowledge, not from its source). -/
def Obligations.TokensAreDecimalDigits : Prop :=
  ∀ v : Sample,
    (v.toNat < 10000 → ∃ a b c d : Nat, a < 10 ∧ b < 10 ∧ c < 10 ∧ d < 10 ∧
      v.toNat = 1000 * a + 100 * b + 10 * c + d ∧
      token v = [digitByte a, digitByte b, digitByte c, digitByte d, 0x7C]) ∧
    (10000 ≤ v.toNat → ∃ e a b c d : Nat, 0 < e ∧ e < 10 ∧ a < 10 ∧ b < 10 ∧ c < 10 ∧ d < 10 ∧
      v.toNat = 10000 * e + 1000 * a + 100 * b + 10 * c + d ∧
      token v = [digitByte e, digitByte a, digitByte b, digitByte c, digitByte d, 0x7C])

/-- R228: a line of CAP words of at most 9999 has 5*CAP characters before NEWLINE, 80 or 170. -/
def Obligations.LinesHaveFiveCharactersPerWord : Prop :=
  ∀ (s : State) (ws : List Sample), (∀ v ∈ ws, v.toNat ≤ 9999) → ws.length = cap s →
    (lineTokens ws).length = 5 * cap s ∧
    (lineTokens ws).length = (if s.cfg.variant = .simple then 80 else 170) ∧
    lineText s.cfg ws = lineTokens ws ++ s.cfg.newline
end

