-- ==== Sys2Proof/Laws/State.lean ====
section
/-! SUPPORT. What each named update of a field does to every field of the state: one lemma per update, a conjunct per
field, each true by rfl, so that simp reads any field of an updated state without unfolding the update. -/

namespace Sys2Proof.Machine

@[simp] theorem State.setPhase_fields (s : State) (x : Phase) :
    (s.setPhase x).phase = x ∧ (s.setPhase x).stack = s.stack ∧ (s.setPhase x).top = s.top ∧
    (s.setPhase x).rawSample = s.rawSample ∧ (s.setPhase x).measReady = s.measReady ∧
    (s.setPhase x).sweepFlag = s.sweepFlag ∧ (s.setPhase x).convPending = s.convPending ∧
    (s.setPhase x).convCount = s.convCount ∧ (s.setPhase x).tickCount = s.tickCount ∧ (s.setPhase x).ctr = s.ctr ∧
    (s.setPhase x).chan = s.chan ∧ (s.setPhase x).sub = s.sub ∧ (s.setPhase x).mcount = s.mcount ∧
    (s.setPhase x).side = s.side ∧ (s.setPhase x).muxA = s.muxA ∧ (s.setPhase x).muxB = s.muxB ∧
    (s.setPhase x).cfg = s.cfg ∧ (s.setPhase x).trace = s.trace ∧ (s.setPhase x).out = s.out :=
  ⟨rfl, rfl, rfl, rfl, rfl, rfl, rfl, rfl, rfl, rfl, rfl, rfl, rfl, rfl, rfl, rfl, rfl, rfl, rfl⟩

@[simp] theorem State.setStack_fields (s : State) (x : Vector Sample maxSlots) :
    (s.setStack x).phase = s.phase ∧ (s.setStack x).stack = x ∧ (s.setStack x).top = s.top ∧
    (s.setStack x).rawSample = s.rawSample ∧ (s.setStack x).measReady = s.measReady ∧
    (s.setStack x).sweepFlag = s.sweepFlag ∧ (s.setStack x).convPending = s.convPending ∧
    (s.setStack x).convCount = s.convCount ∧ (s.setStack x).tickCount = s.tickCount ∧ (s.setStack x).ctr = s.ctr ∧
    (s.setStack x).chan = s.chan ∧ (s.setStack x).sub = s.sub ∧ (s.setStack x).mcount = s.mcount ∧
    (s.setStack x).side = s.side ∧ (s.setStack x).muxA = s.muxA ∧ (s.setStack x).muxB = s.muxB ∧
    (s.setStack x).cfg = s.cfg ∧ (s.setStack x).trace = s.trace ∧ (s.setStack x).out = s.out :=
  ⟨rfl, rfl, rfl, rfl, rfl, rfl, rfl, rfl, rfl, rfl, rfl, rfl, rfl, rfl, rfl, rfl, rfl, rfl, rfl⟩

@[simp] theorem State.setTop_fields (s : State) (x : BitVec 7) :
    (s.setTop x).phase = s.phase ∧ (s.setTop x).stack = s.stack ∧ (s.setTop x).top = x ∧
    (s.setTop x).rawSample = s.rawSample ∧ (s.setTop x).measReady = s.measReady ∧
    (s.setTop x).sweepFlag = s.sweepFlag ∧ (s.setTop x).convPending = s.convPending ∧
    (s.setTop x).convCount = s.convCount ∧ (s.setTop x).tickCount = s.tickCount ∧ (s.setTop x).ctr = s.ctr ∧
    (s.setTop x).chan = s.chan ∧ (s.setTop x).sub = s.sub ∧ (s.setTop x).mcount = s.mcount ∧
    (s.setTop x).side = s.side ∧ (s.setTop x).muxA = s.muxA ∧ (s.setTop x).muxB = s.muxB ∧ (s.setTop x).cfg = s.cfg ∧
    (s.setTop x).trace = s.trace ∧ (s.setTop x).out = s.out :=
  ⟨rfl, rfl, rfl, rfl, rfl, rfl, rfl, rfl, rfl, rfl, rfl, rfl, rfl, rfl, rfl, rfl, rfl, rfl, rfl⟩

@[simp] theorem State.setRawSample_fields (s : State) (x : Sample) :
    (s.setRawSample x).phase = s.phase ∧ (s.setRawSample x).stack = s.stack ∧ (s.setRawSample x).top = s.top ∧
    (s.setRawSample x).rawSample = x ∧ (s.setRawSample x).measReady = s.measReady ∧
    (s.setRawSample x).sweepFlag = s.sweepFlag ∧ (s.setRawSample x).convPending = s.convPending ∧
    (s.setRawSample x).convCount = s.convCount ∧ (s.setRawSample x).tickCount = s.tickCount ∧
    (s.setRawSample x).ctr = s.ctr ∧ (s.setRawSample x).chan = s.chan ∧ (s.setRawSample x).sub = s.sub ∧
    (s.setRawSample x).mcount = s.mcount ∧ (s.setRawSample x).side = s.side ∧ (s.setRawSample x).muxA = s.muxA ∧
    (s.setRawSample x).muxB = s.muxB ∧ (s.setRawSample x).cfg = s.cfg ∧ (s.setRawSample x).trace = s.trace ∧
    (s.setRawSample x).out = s.out :=
  ⟨rfl, rfl, rfl, rfl, rfl, rfl, rfl, rfl, rfl, rfl, rfl, rfl, rfl, rfl, rfl, rfl, rfl, rfl, rfl⟩

@[simp] theorem State.setMeasReady_fields (s : State) (x : Bool) :
    (s.setMeasReady x).phase = s.phase ∧ (s.setMeasReady x).stack = s.stack ∧ (s.setMeasReady x).top = s.top ∧
    (s.setMeasReady x).rawSample = s.rawSample ∧ (s.setMeasReady x).measReady = x ∧
    (s.setMeasReady x).sweepFlag = s.sweepFlag ∧ (s.setMeasReady x).convPending = s.convPending ∧
    (s.setMeasReady x).convCount = s.convCount ∧ (s.setMeasReady x).tickCount = s.tickCount ∧
    (s.setMeasReady x).ctr = s.ctr ∧ (s.setMeasReady x).chan = s.chan ∧ (s.setMeasReady x).sub = s.sub ∧
    (s.setMeasReady x).mcount = s.mcount ∧ (s.setMeasReady x).side = s.side ∧ (s.setMeasReady x).muxA = s.muxA ∧
    (s.setMeasReady x).muxB = s.muxB ∧ (s.setMeasReady x).cfg = s.cfg ∧ (s.setMeasReady x).trace = s.trace ∧
    (s.setMeasReady x).out = s.out :=
  ⟨rfl, rfl, rfl, rfl, rfl, rfl, rfl, rfl, rfl, rfl, rfl, rfl, rfl, rfl, rfl, rfl, rfl, rfl, rfl⟩

@[simp] theorem State.setSweepFlag_fields (s : State) (x : Bool) :
    (s.setSweepFlag x).phase = s.phase ∧ (s.setSweepFlag x).stack = s.stack ∧ (s.setSweepFlag x).top = s.top ∧
    (s.setSweepFlag x).rawSample = s.rawSample ∧ (s.setSweepFlag x).measReady = s.measReady ∧
    (s.setSweepFlag x).sweepFlag = x ∧ (s.setSweepFlag x).convPending = s.convPending ∧
    (s.setSweepFlag x).convCount = s.convCount ∧ (s.setSweepFlag x).tickCount = s.tickCount ∧
    (s.setSweepFlag x).ctr = s.ctr ∧ (s.setSweepFlag x).chan = s.chan ∧ (s.setSweepFlag x).sub = s.sub ∧
    (s.setSweepFlag x).mcount = s.mcount ∧ (s.setSweepFlag x).side = s.side ∧ (s.setSweepFlag x).muxA = s.muxA ∧
    (s.setSweepFlag x).muxB = s.muxB ∧ (s.setSweepFlag x).cfg = s.cfg ∧ (s.setSweepFlag x).trace = s.trace ∧
    (s.setSweepFlag x).out = s.out :=
  ⟨rfl, rfl, rfl, rfl, rfl, rfl, rfl, rfl, rfl, rfl, rfl, rfl, rfl, rfl, rfl, rfl, rfl, rfl, rfl⟩

@[simp] theorem State.setConvPending_fields (s : State) (x : Bool) :
    (s.setConvPending x).phase = s.phase ∧ (s.setConvPending x).stack = s.stack ∧ (s.setConvPending x).top = s.top ∧
    (s.setConvPending x).rawSample = s.rawSample ∧ (s.setConvPending x).measReady = s.measReady ∧
    (s.setConvPending x).sweepFlag = s.sweepFlag ∧ (s.setConvPending x).convPending = x ∧
    (s.setConvPending x).convCount = s.convCount ∧ (s.setConvPending x).tickCount = s.tickCount ∧
    (s.setConvPending x).ctr = s.ctr ∧ (s.setConvPending x).chan = s.chan ∧ (s.setConvPending x).sub = s.sub ∧
    (s.setConvPending x).mcount = s.mcount ∧ (s.setConvPending x).side = s.side ∧ (s.setConvPending x).muxA = s.muxA ∧
    (s.setConvPending x).muxB = s.muxB ∧ (s.setConvPending x).cfg = s.cfg ∧ (s.setConvPending x).trace = s.trace ∧
    (s.setConvPending x).out = s.out :=
  ⟨rfl, rfl, rfl, rfl, rfl, rfl, rfl, rfl, rfl, rfl, rfl, rfl, rfl, rfl, rfl, rfl, rfl, rfl, rfl⟩

@[simp] theorem State.setConvCount_fields (s : State) (x : BitVec 8) :
    (s.setConvCount x).phase = s.phase ∧ (s.setConvCount x).stack = s.stack ∧ (s.setConvCount x).top = s.top ∧
    (s.setConvCount x).rawSample = s.rawSample ∧ (s.setConvCount x).measReady = s.measReady ∧
    (s.setConvCount x).sweepFlag = s.sweepFlag ∧ (s.setConvCount x).convPending = s.convPending ∧
    (s.setConvCount x).convCount = x ∧ (s.setConvCount x).tickCount = s.tickCount ∧ (s.setConvCount x).ctr = s.ctr ∧
    (s.setConvCount x).chan = s.chan ∧ (s.setConvCount x).sub = s.sub ∧ (s.setConvCount x).mcount = s.mcount ∧
    (s.setConvCount x).side = s.side ∧ (s.setConvCount x).muxA = s.muxA ∧ (s.setConvCount x).muxB = s.muxB ∧
    (s.setConvCount x).cfg = s.cfg ∧ (s.setConvCount x).trace = s.trace ∧ (s.setConvCount x).out = s.out :=
  ⟨rfl, rfl, rfl, rfl, rfl, rfl, rfl, rfl, rfl, rfl, rfl, rfl, rfl, rfl, rfl, rfl, rfl, rfl, rfl⟩

@[simp] theorem State.setTickCount_fields (s : State) (x : Nat) :
    (s.setTickCount x).phase = s.phase ∧ (s.setTickCount x).stack = s.stack ∧ (s.setTickCount x).top = s.top ∧
    (s.setTickCount x).rawSample = s.rawSample ∧ (s.setTickCount x).measReady = s.measReady ∧
    (s.setTickCount x).sweepFlag = s.sweepFlag ∧ (s.setTickCount x).convPending = s.convPending ∧
    (s.setTickCount x).convCount = s.convCount ∧ (s.setTickCount x).tickCount = x ∧ (s.setTickCount x).ctr = s.ctr ∧
    (s.setTickCount x).chan = s.chan ∧ (s.setTickCount x).sub = s.sub ∧ (s.setTickCount x).mcount = s.mcount ∧
    (s.setTickCount x).side = s.side ∧ (s.setTickCount x).muxA = s.muxA ∧ (s.setTickCount x).muxB = s.muxB ∧
    (s.setTickCount x).cfg = s.cfg ∧ (s.setTickCount x).trace = s.trace ∧ (s.setTickCount x).out = s.out :=
  ⟨rfl, rfl, rfl, rfl, rfl, rfl, rfl, rfl, rfl, rfl, rfl, rfl, rfl, rfl, rfl, rfl, rfl, rfl, rfl⟩

@[simp] theorem State.setCtr_fields (s : State) (x : BitVec 8) :
    (s.setCtr x).phase = s.phase ∧ (s.setCtr x).stack = s.stack ∧ (s.setCtr x).top = s.top ∧
    (s.setCtr x).rawSample = s.rawSample ∧ (s.setCtr x).measReady = s.measReady ∧
    (s.setCtr x).sweepFlag = s.sweepFlag ∧ (s.setCtr x).convPending = s.convPending ∧
    (s.setCtr x).convCount = s.convCount ∧ (s.setCtr x).tickCount = s.tickCount ∧ (s.setCtr x).ctr = x ∧
    (s.setCtr x).chan = s.chan ∧ (s.setCtr x).sub = s.sub ∧ (s.setCtr x).mcount = s.mcount ∧
    (s.setCtr x).side = s.side ∧ (s.setCtr x).muxA = s.muxA ∧ (s.setCtr x).muxB = s.muxB ∧ (s.setCtr x).cfg = s.cfg ∧
    (s.setCtr x).trace = s.trace ∧ (s.setCtr x).out = s.out :=
  ⟨rfl, rfl, rfl, rfl, rfl, rfl, rfl, rfl, rfl, rfl, rfl, rfl, rfl, rfl, rfl, rfl, rfl, rfl, rfl⟩

@[simp] theorem State.setChan_fields (s : State) (x : BitVec 4) :
    (s.setChan x).phase = s.phase ∧ (s.setChan x).stack = s.stack ∧ (s.setChan x).top = s.top ∧
    (s.setChan x).rawSample = s.rawSample ∧ (s.setChan x).measReady = s.measReady ∧
    (s.setChan x).sweepFlag = s.sweepFlag ∧ (s.setChan x).convPending = s.convPending ∧
    (s.setChan x).convCount = s.convCount ∧ (s.setChan x).tickCount = s.tickCount ∧ (s.setChan x).ctr = s.ctr ∧
    (s.setChan x).chan = x ∧ (s.setChan x).sub = s.sub ∧ (s.setChan x).mcount = s.mcount ∧
    (s.setChan x).side = s.side ∧ (s.setChan x).muxA = s.muxA ∧ (s.setChan x).muxB = s.muxB ∧
    (s.setChan x).cfg = s.cfg ∧ (s.setChan x).trace = s.trace ∧ (s.setChan x).out = s.out :=
  ⟨rfl, rfl, rfl, rfl, rfl, rfl, rfl, rfl, rfl, rfl, rfl, rfl, rfl, rfl, rfl, rfl, rfl, rfl, rfl⟩

@[simp] theorem State.setSub_fields (s : State) (x : BitVec 2) :
    (s.setSub x).phase = s.phase ∧ (s.setSub x).stack = s.stack ∧ (s.setSub x).top = s.top ∧
    (s.setSub x).rawSample = s.rawSample ∧ (s.setSub x).measReady = s.measReady ∧
    (s.setSub x).sweepFlag = s.sweepFlag ∧ (s.setSub x).convPending = s.convPending ∧
    (s.setSub x).convCount = s.convCount ∧ (s.setSub x).tickCount = s.tickCount ∧ (s.setSub x).ctr = s.ctr ∧
    (s.setSub x).chan = s.chan ∧ (s.setSub x).sub = x ∧ (s.setSub x).mcount = s.mcount ∧ (s.setSub x).side = s.side ∧
    (s.setSub x).muxA = s.muxA ∧ (s.setSub x).muxB = s.muxB ∧ (s.setSub x).cfg = s.cfg ∧
    (s.setSub x).trace = s.trace ∧ (s.setSub x).out = s.out :=
  ⟨rfl, rfl, rfl, rfl, rfl, rfl, rfl, rfl, rfl, rfl, rfl, rfl, rfl, rfl, rfl, rfl, rfl, rfl, rfl⟩

@[simp] theorem State.setMcount_fields (s : State) (x : BitVec 4) :
    (s.setMcount x).phase = s.phase ∧ (s.setMcount x).stack = s.stack ∧ (s.setMcount x).top = s.top ∧
    (s.setMcount x).rawSample = s.rawSample ∧ (s.setMcount x).measReady = s.measReady ∧
    (s.setMcount x).sweepFlag = s.sweepFlag ∧ (s.setMcount x).convPending = s.convPending ∧
    (s.setMcount x).convCount = s.convCount ∧ (s.setMcount x).tickCount = s.tickCount ∧ (s.setMcount x).ctr = s.ctr ∧
    (s.setMcount x).chan = s.chan ∧ (s.setMcount x).sub = s.sub ∧ (s.setMcount x).mcount = x ∧
    (s.setMcount x).side = s.side ∧ (s.setMcount x).muxA = s.muxA ∧ (s.setMcount x).muxB = s.muxB ∧
    (s.setMcount x).cfg = s.cfg ∧ (s.setMcount x).trace = s.trace ∧ (s.setMcount x).out = s.out :=
  ⟨rfl, rfl, rfl, rfl, rfl, rfl, rfl, rfl, rfl, rfl, rfl, rfl, rfl, rfl, rfl, rfl, rfl, rfl, rfl⟩

@[simp] theorem State.setSide_fields (s : State) (x : Side) :
    (s.setSide x).phase = s.phase ∧ (s.setSide x).stack = s.stack ∧ (s.setSide x).top = s.top ∧
    (s.setSide x).rawSample = s.rawSample ∧ (s.setSide x).measReady = s.measReady ∧
    (s.setSide x).sweepFlag = s.sweepFlag ∧ (s.setSide x).convPending = s.convPending ∧
    (s.setSide x).convCount = s.convCount ∧ (s.setSide x).tickCount = s.tickCount ∧ (s.setSide x).ctr = s.ctr ∧
    (s.setSide x).chan = s.chan ∧ (s.setSide x).sub = s.sub ∧ (s.setSide x).mcount = s.mcount ∧
    (s.setSide x).side = x ∧ (s.setSide x).muxA = s.muxA ∧ (s.setSide x).muxB = s.muxB ∧ (s.setSide x).cfg = s.cfg ∧
    (s.setSide x).trace = s.trace ∧ (s.setSide x).out = s.out :=
  ⟨rfl, rfl, rfl, rfl, rfl, rfl, rfl, rfl, rfl, rfl, rfl, rfl, rfl, rfl, rfl, rfl, rfl, rfl, rfl⟩

@[simp] theorem State.setMuxA_fields (s : State) (x : BitVec 4) :
    (s.setMuxA x).phase = s.phase ∧ (s.setMuxA x).stack = s.stack ∧ (s.setMuxA x).top = s.top ∧
    (s.setMuxA x).rawSample = s.rawSample ∧ (s.setMuxA x).measReady = s.measReady ∧
    (s.setMuxA x).sweepFlag = s.sweepFlag ∧ (s.setMuxA x).convPending = s.convPending ∧
    (s.setMuxA x).convCount = s.convCount ∧ (s.setMuxA x).tickCount = s.tickCount ∧ (s.setMuxA x).ctr = s.ctr ∧
    (s.setMuxA x).chan = s.chan ∧ (s.setMuxA x).sub = s.sub ∧ (s.setMuxA x).mcount = s.mcount ∧
    (s.setMuxA x).side = s.side ∧ (s.setMuxA x).muxA = x ∧ (s.setMuxA x).muxB = s.muxB ∧ (s.setMuxA x).cfg = s.cfg ∧
    (s.setMuxA x).trace = s.trace ∧ (s.setMuxA x).out = s.out :=
  ⟨rfl, rfl, rfl, rfl, rfl, rfl, rfl, rfl, rfl, rfl, rfl, rfl, rfl, rfl, rfl, rfl, rfl, rfl, rfl⟩

@[simp] theorem State.setMuxB_fields (s : State) (x : BitVec 4) :
    (s.setMuxB x).phase = s.phase ∧ (s.setMuxB x).stack = s.stack ∧ (s.setMuxB x).top = s.top ∧
    (s.setMuxB x).rawSample = s.rawSample ∧ (s.setMuxB x).measReady = s.measReady ∧
    (s.setMuxB x).sweepFlag = s.sweepFlag ∧ (s.setMuxB x).convPending = s.convPending ∧
    (s.setMuxB x).convCount = s.convCount ∧ (s.setMuxB x).tickCount = s.tickCount ∧ (s.setMuxB x).ctr = s.ctr ∧
    (s.setMuxB x).chan = s.chan ∧ (s.setMuxB x).sub = s.sub ∧ (s.setMuxB x).mcount = s.mcount ∧
    (s.setMuxB x).side = s.side ∧ (s.setMuxB x).muxA = s.muxA ∧ (s.setMuxB x).muxB = x ∧ (s.setMuxB x).cfg = s.cfg ∧
    (s.setMuxB x).trace = s.trace ∧ (s.setMuxB x).out = s.out :=
  ⟨rfl, rfl, rfl, rfl, rfl, rfl, rfl, rfl, rfl, rfl, rfl, rfl, rfl, rfl, rfl, rfl, rfl, rfl, rfl⟩

@[simp] theorem State.setTrace_fields (s : State) (x : Trace) :
    (s.setTrace x).phase = s.phase ∧ (s.setTrace x).stack = s.stack ∧ (s.setTrace x).top = s.top ∧
    (s.setTrace x).rawSample = s.rawSample ∧ (s.setTrace x).measReady = s.measReady ∧
    (s.setTrace x).sweepFlag = s.sweepFlag ∧ (s.setTrace x).convPending = s.convPending ∧
    (s.setTrace x).convCount = s.convCount ∧ (s.setTrace x).tickCount = s.tickCount ∧ (s.setTrace x).ctr = s.ctr ∧
    (s.setTrace x).chan = s.chan ∧ (s.setTrace x).sub = s.sub ∧ (s.setTrace x).mcount = s.mcount ∧
    (s.setTrace x).side = s.side ∧ (s.setTrace x).muxA = s.muxA ∧ (s.setTrace x).muxB = s.muxB ∧
    (s.setTrace x).cfg = s.cfg ∧ (s.setTrace x).trace = x ∧ (s.setTrace x).out = s.out :=
  ⟨rfl, rfl, rfl, rfl, rfl, rfl, rfl, rfl, rfl, rfl, rfl, rfl, rfl, rfl, rfl, rfl, rfl, rfl, rfl⟩

@[simp] theorem State.setOut_fields (s : State) (x : List Record) :
    (s.setOut x).phase = s.phase ∧ (s.setOut x).stack = s.stack ∧ (s.setOut x).top = s.top ∧
    (s.setOut x).rawSample = s.rawSample ∧ (s.setOut x).measReady = s.measReady ∧
    (s.setOut x).sweepFlag = s.sweepFlag ∧ (s.setOut x).convPending = s.convPending ∧
    (s.setOut x).convCount = s.convCount ∧ (s.setOut x).tickCount = s.tickCount ∧ (s.setOut x).ctr = s.ctr ∧
    (s.setOut x).chan = s.chan ∧ (s.setOut x).sub = s.sub ∧ (s.setOut x).mcount = s.mcount ∧
    (s.setOut x).side = s.side ∧ (s.setOut x).muxA = s.muxA ∧ (s.setOut x).muxB = s.muxB ∧ (s.setOut x).cfg = s.cfg ∧
    (s.setOut x).trace = s.trace ∧ (s.setOut x).out = x :=
  ⟨rfl, rfl, rfl, rfl, rfl, rfl, rfl, rfl, rfl, rfl, rfl, rfl, rfl, rfl, rfl, rfl, rfl, rfl, rfl⟩

end Sys2Proof.Machine
end

