-- ==== Sys2Proof/Laws/Ops.lean ====
section
/-! SUPPORT. What each shared operation can do, once: admission, the stack's reads and writes, PUSH, POP and the loop of
DRAIN, the sequencer's steps, and the guards. Proofs about the meanings cite these. -/

namespace Sys2Proof.Machine

open Sys2Proof.Safety

/-! Parameters. -/

theorem cap_simple {s : State} (h : s.cfg.variant = .simple) : cap s = 16 := by simp [cap, params, paramsOf, h]

theorem cap_extended {s : State} (h : s.cfg.variant = .extended) : cap s = 34 := by simp [cap, params, paramsOf, h]

theorem cap_cases (s : State) :
    (s.cfg.variant = .simple ∧ cap s = 16) ∨ (s.cfg.variant = .extended ∧ cap s = 34) := by
  cases h : s.cfg.variant
  · exact .inl ⟨rfl, cap_simple h⟩
  · exact .inr ⟨rfl, cap_extended h⟩

theorem cap_congr {s t : State} (h : t.cfg = s.cfg) : cap t = cap s := by simp [cap, params, h]

theorem holdOf_eq (s : State) : holdOf s = if s.chan.toNat < 8 then 4 else 1 := rfl

theorem wf_iff (c : Config) : c.wf = true ↔ (c.variant = .extended → 1 ≤ c.tickThreshold) := by
  cases h : c.variant <;> simp [Config.wf, Config.wfWith, paramsOf, Params.agree, h]

/-! Admission. -/

theorem ifAdmitted_eq {i : Instr} {s : State} (k : Result) (hw : s.cfg.wf = true)
    (ha : admission s.trace.mode s.cfg.variant i = none) : ifAdmitted i s k = k := by
  simp [ifAdmitted, hw, ha]

/-- What `ifAdmitted` can answer as a next state. -/
theorem ifAdmitted_next {i : Instr} {s t : State} {k : Result} (h : ifAdmitted i s k = .next t) :
    s.cfg.wf = true ∧ admission s.trace.mode s.cfg.variant i = none ∧ k = .next t := by
  unfold ifAdmitted at h
  split at h
  · cases h
  · next hw =>
    split at h
    · cases h
    · next ha => exact ⟨by simpa using hw, ha, h⟩

theorem ifNext_eq {a : CtlAction} {s : State} (k : Result) (hw : s.cfg.wf = true)
    (hm : s.trace.mode = .system) :
    ifNext a s k = if ctlNext s = some a then k else .refused .notEnabled := by
  apply ifAdmitted_eq _ hw
  cases a <;> simp [admission, CtlAction.instr, Instr.admittedIn, Instr.opClass, Instr.presentIn, hm]

/-- What `ifNext` can answer as a next state. -/
theorem ifNext_next {a : CtlAction} {s t : State} {k : Result} (h : ifNext a s k = .next t) :
    s.trace.mode = .system ∧ ctlNext s = some a ∧ k = .next t := by
  obtain ⟨-, ha, hk⟩ := ifAdmitted_next h
  refine ⟨?_, ?_⟩
  · cases hm : s.trace.mode
    · rfl
    · cases a <;> simp [admission, CtlAction.instr, Instr.admittedIn, Instr.opClass, hm] at ha
  · split at hk
    · next hc => exact ⟨hc, hk⟩
    · cases hk

/-! The stack index. -/

theorem depth_eq (s : State) : depth s = (s.top.toNat + 1) % 128 := by simp [depth]

theorem depth_lt (s : State) : depth s < 128 := by rw [depth_eq]; omega

theorem stackEmpty_iff (s : State) : isEmpty s = true ↔ depth s = 0 := by
  rw [depth_eq, isEmpty, beq_iff_eq, ← BitVec.toNat_inj]
  simp
  omega

theorem stackFull_iff (s : State) : isFull s = true ↔ depth s = cap s := by
  rw [depth_eq, isFull, beq_iff_eq, ← BitVec.toNat_inj]
  rcases cap_cases s with ⟨-, h⟩ | ⟨-, h⟩ <;> simp [h] <;> omega

theorem top_of_depth_zero {s : State} (h : depth s = 0) : s.top = emptyTop := by
  simpa [isEmpty] using (stackEmpty_iff s).2 h

theorem top_toNat_of_depth {s : State} {n : Nat} (h : depth s = n + 1) : s.top.toNat = n := by
  rw [depth_eq] at h
  omega

theorem topInRange_iff (s : State) : TopInRange s ↔ depth s ≤ cap s := by
  rw [TopInRange, depth_eq, BitVec.toInt_eq_toNat_cond]
  rcases cap_cases s with ⟨-, h⟩ | ⟨-, h⟩ <;> rw [h] <;> split <;> omega

theorem depth_setTop_succ {s : State} (h : depth s < 127) : depth (s.setTop (s.top + 1)) = depth s + 1 := by
  simp only [depth_eq, State.setTop_fields, BitVec.toNat_add] at h ⊢
  simp
  omega

theorem depth_setTop_pred {s : State} {n : Nat} (h : depth s = n + 1) : depth (s.setTop (s.top - 1)) = n := by
  simp only [depth_eq, State.setTop_fields, BitVec.toNat_sub] at h ⊢
  simp
  omega

/-! The stack's operations. -/

theorem stackRead_eq {s : State} {i : BitVec 7} (h : i.toNat < cap s) : stackRead i s = .ok (slot s i.toNat) := by
  simp [stackRead, slot, h]

theorem push_full {s : State} (d : Sample) (h : depth s = cap s) : push d s = .ok s := by
  simp [push, (stackFull_iff s).2 h]

theorem push_room {s : State} (d : Sample) (h : depth s < cap s) :
    push d s = .ok ((s.setTop (s.top + 1)).setStack (s.stack.setIfInBounds (depth s) d)) := by
  have hf : isFull s = false := by
    rw [Bool.eq_false_iff, ne_eq, stackFull_iff]
    omega
  have hc : cap (s.setTop (s.top + 1)) = cap s := cap_congr (by simp)
  have hd : (s.top + 1).toNat = depth s := rfl
  simp only [push, hf, stackWrite, hc, hd, h, if_true, State.setTop_fields]
  rfl

theorem push_outside {s : State} (d : Sample) (h : cap s < depth s) :
    push d s = .error (.stackIndex (s.top + 1)) := by
  have hf : isFull s = false := by
    rw [Bool.eq_false_iff, ne_eq, stackFull_iff]
    omega
  have hc : cap (s.setTop (s.top + 1)) = cap s := cap_congr (by simp)
  have hd : (s.top + 1).toNat = depth s := rfl
  have hn : ¬depth s < cap s := by omega
  simp only [push, hf, stackWrite, hc, hd, hn, if_false]
  rfl

theorem pop_empty {s : State} (h : depth s = 0) : pop s = .ok (s.cfg.sentinel, s) := by
  have ht := top_of_depth_zero h
  have hs : s.setTop emptyTop = s := by rw [← ht]; rfl
  simp [pop, (stackEmpty_iff s).2 h, hs]

theorem pop_held {s : State} {n : Nat} (h : depth s = n + 1) (hn : n < cap s) :
    pop s = .ok (slot s n, s.setTop (s.top - 1)) := by
  have he : isEmpty s = false := by
    rw [Bool.eq_false_iff, ne_eq, stackEmpty_iff]
    omega
  have ht := top_toNat_of_depth h
  rw [pop, he, stackRead_eq (by omega), ht]
  rfl

theorem pop_outside {s : State} (h : cap s < depth s) : pop s = .error (.stackIndex s.top) := by
  have he : isEmpty s = false := by
    rw [Bool.eq_false_iff, ne_eq, stackEmpty_iff]
    omega
  have hn : ¬s.top.toNat < cap s := by
    rw [depth_eq] at h
    omega
  simp only [pop, he, stackRead, hn, if_false]
  rfl

/-- The loop of DRAIN takes the held words, last first, and leaves the stack empty. -/
theorem drainLoop_held : ∀ (n : Nat) (s : State), depth s = n → n ≤ cap s →
    drainLoop n s = .ok (((List.range n).map (slot s)).reverse, s.setTop emptyTop)
  | 0, s, h, _ => by
    have ht := top_of_depth_zero h
    have hs : s.setTop emptyTop = s := by rw [← ht]; rfl
    simp [drainLoop, hs]
  | n + 1, s, h, hn => by
    have he : isEmpty s = false := by
      rw [Bool.eq_false_iff, ne_eq, stackEmpty_iff]
      omega
    have ih := drainLoop_held n (s.setTop (s.top - 1)) (depth_setTop_pred h)
      (by rw [cap_congr (s := s) (by simp)]; omega)
    have hslot : slot (s.setTop (s.top - 1)) = slot s := by
      funext i
      simp [slot]
    rw [drainLoop, he, pop_held h (by omega)]
    simp only [ih, hslot]
    simp [Except.map, List.range_succ]
    rfl

theorem drain_held {s : State} (h : depth s ≤ cap s) :
    drain s = .ok (emit .flush (emit (.line (held s).reverse) (s.setTop emptyTop))) := by
  rw [drain, drainLoop_held _ s rfl h]
  rfl

theorem drain_outside {s : State} (h : cap s < depth s) : drain s = .error (.stackIndex s.top) := by
  have he : isEmpty s = false := by
    rw [Bool.eq_false_iff, ne_eq, stackEmpty_iff]
    omega
  obtain ⟨n, hn⟩ : ∃ n, depth s = n + 1 := ⟨depth s - 1, by omega⟩
  rw [drain, hn, drainLoop, he, pop_outside h]
  rfl

/-! The sequencer. -/

theorem nextChan_eq (s : State) :
    nextChan s =
      if s.sub.toNat + 1 = (if s.chan.toNat < 8 then 4 else 1)
        then { s with sub := 0, chan := BitVec.ofNat 4 ((s.chan.toNat + 1) % 10) }
        else { s with sub := s.sub + 1 } := by
  rw [nextChan, holdOf_eq]
  have h : BitVec.ofNat 2 (s.sub.toNat + 1) = s.sub + 1 := by
    apply BitVec.eq_of_toNat_eq
    simp
  rw [h]
  simp only [params, paramsOf]
  rfl

theorem nextMux_reference {s : State} (h : 8 ≤ s.chan.toNat) : nextMux s = s := by
  simp [nextMux, params, paramsOf, Nat.not_lt.2 h]

theorem nextMux_wrap {s : State} (h : s.chan.toNat < 8) (hm : s.mcount = 15) :
    nextMux s = match s.side with
      | .a => { s with mcount := 0, side := .b, muxB := 0 }
      | .b => { s with mcount := 0, side := .a, muxA := 0 } := by
  simp only [nextMux, countSide, params, paramsOf, h, if_true, hm]
  cases hs : s.side <;> simp [otherSide, driveSide, State.setMcount, State.setSide, State.setMuxA, State.setMuxB, hs]

theorem nextMux_count {s : State} (h : s.chan.toNat < 8) (hm : s.mcount ≠ 15) :
    nextMux s = match s.side with
      | .a => { s with mcount := s.mcount + 1, muxA := s.mcount + 1 }
      | .b => { s with mcount := s.mcount + 1, muxB := s.mcount + 1 } := by
  have hn : ¬s.mcount.toNat + 1 = 16 := fun e => hm (BitVec.eq_of_toNat_eq (by simp; omega))
  have hb : BitVec.ofNat 4 (s.mcount.toNat + 1) = s.mcount + 1 := by
    apply BitVec.eq_of_toNat_eq
    simp
  simp only [nextMux, countSide, params, paramsOf, h, if_true, hn, if_false, hb]
  cases hs : s.side <;> simp [driveSide, State.setMcount, State.setMuxA, State.setMuxB, hs]

theorem advanceSimple_eq (s : State) : advanceSimple s = { s with ctr := s.ctr + 1 } := by
  have h : BitVec.ofNat 8 ((s.ctr.toNat + 1) % 2 ^ 8) = s.ctr + 1 := by
    apply BitVec.eq_of_toNat_eq
    simp
  simp only [advanceSimple, params, paramsOf, h]
  rfl

end Sys2Proof.Machine
end

