-- ==== Sys2Proof/Laws/Exec.lean ====
section
/-! SUPPORT. What `exec` can answer, once for every operation (`exec_effect`), and the frames of the sequencer's steps.
Whole-machine rules and invariants are proved from these, without unfolding a meaning. -/

namespace Sys2Proof.Machine

open Sys2Proof.Safety

/-! The sequencer's frames. -/

theorem nextMux_frame (s : State) :
    nextMux s =
      { s with
        mcount := (nextMux s).mcount, side := (nextMux s).side, muxA := (nextMux s).muxA,
        muxB := (nextMux s).muxB } := by
  by_cases h : 8 ≤ s.chan.toNat
  · rw [nextMux_reference h]
  · by_cases h2 : s.mcount = 15
    · rw [nextMux_wrap (by omega) h2]
      cases s.side <;> simp
    · rw [nextMux_count (by omega) h2]
      cases s.side <;> simp

theorem nextChan_frame (s : State) :
    nextChan s = { s with chan := (nextChan s).chan, sub := (nextChan s).sub } := by
  by_cases h : s.sub.toNat + 1 = (if s.chan.toNat < 8 then 4 else 1)
  · rw [nextChan_eq, if_pos h]
  · rw [nextChan_eq, if_neg h]

theorem advance_of_extended {s : State} (h : s.cfg.variant = .extended) : advance s = nextMux (nextChan s) := by
  simp [advance, h]

theorem advance_of_simple {s : State} (h : s.cfg.variant = .simple) : advance s = { s with ctr := s.ctr + 1 } := by
  simp [advance, h, advanceSimple_eq]

theorem advance_frame (s : State) :
    advance s =
      { s with
        ctr := (advance s).ctr
        chan := (advance s).chan
        sub := (advance s).sub
        mcount := (advance s).mcount
        side := (advance s).side
        muxA := (advance s).muxA
        muxB := (advance s).muxB } := by
  cases h : s.cfg.variant
  · rw [advance_of_simple h]
  · rw [advance_of_extended h, nextMux_frame, nextChan_frame]

/-! CONSUME's push. -/

theorem push_advance_room {s : State} (d : Sample) (h : depth s < cap s) :
    push d (advance s) =
      .ok { advance s with top := s.top + 1, stack := s.stack.setIfInBounds (depth s) d } := by
  have e := advance_frame s
  have h1 : (advance s).top = s.top := by rw [e]
  have h2 : (advance s).stack = s.stack := by rw [e]
  have h3 : cap (advance s) = cap s := cap_congr (by rw [e])
  have h4 : depth (advance s) = depth s := by simp [depth, h1]
  rw [push_room _ (by omega), h1, h2, h4]
  rfl

theorem push_advance_full {s : State} (d : Sample) (h : depth s = cap s) : push d (advance s) = .ok (advance s) := by
  have e := advance_frame s
  have h1 : (advance s).top = s.top := by rw [e]
  have h3 : cap (advance s) = cap s := cap_congr (by rw [e])
  have h4 : depth (advance s) = depth s := by simp [depth, h1]
  rw [push_full _ (by omega)]

theorem push_advance_outside {s : State} (d : Sample) (h : cap s < depth s) :
    push d (advance s) = .error (.stackIndex (s.top + 1)) := by
  have e := advance_frame s
  have h1 : (advance s).top = s.top := by rw [e]
  have h3 : cap (advance s) = cap s := cap_congr (by rw [e])
  have h4 : depth (advance s) = depth s := by simp [depth, h1]
  rw [push_outside _ (by omega), h1]

/-! Everything an operation can do. -/

/-- What `t` is when operation `i` takes `s` to `t`. -/
def Effect (i : Instr) (s t : State) : Prop :=
  match i with
  | .reset => t = resetBlock s
  | .tick => t = tickBlock s
  | .convDone d => t = convDone d s
  | .startConv => ctlNext s = some .startConv ∧ t = startConv s
  | .wake => ctlNext s = some .wake ∧ t = wake s
  | .consume =>
    ctlNext s = some .consume ∧
      ((depth s = cap s ∧ t = countSample (advance s)) ∨
        (depth s < cap s ∧
          t = countSample
            { advance s with top := s.top + 1, stack := s.stack.setIfInBounds (depth s) s.rawSample }))
  | .transmit =>
    ctlNext s = some .transmit ∧ depth s ≤ cap s ∧
      t = closeSweep (emit .flush (emit (.line (held s).reverse) (s.setTop emptyTop)))
  | .pass => ctlNext s = some .pass ∧ t = passPhase s
  | .push d =>
    (depth s = cap s ∧ t = s) ∨
      (depth s < cap s ∧ t = (s.setTop (s.top + 1)).setStack (s.stack.setIfInBounds (depth s) d))
  | .pop =>
    (depth s = 0 ∧ t = emit (.popped s.cfg.sentinel) s) ∨
      (∃ n, depth s = n + 1 ∧ n < cap s ∧ t = emit (.popped (slot s n)) (s.setTop (s.top - 1)))
  | .drain => depth s ≤ cap s ∧ t = emit .flush (emit (.line (held s).reverse) (s.setTop emptyTop))
  | .advanceSimple => t = advanceSimple s
  | .nextChan => t = nextChan s
  | .nextMux => t = nextMux s

theorem consume_ok {s t : State} (h : consume s = .ok t) :
    (depth s = cap s ∧ t = countSample (advance s)) ∨
      (depth s < cap s ∧
        t = countSample
          { advance s with top := s.top + 1, stack := s.stack.setIfInBounds (depth s) s.rawSample }) := by
  have raw : (advance s).rawSample = s.rawSample := by rw [advance_frame s]
  rw [consume, raw] at h
  rcases Nat.lt_trichotomy (depth s) (cap s) with hd | hd | hd
  · rw [push_advance_room _ hd] at h
    cases h
    exact .inr ⟨hd, rfl⟩
  · rw [push_advance_full _ hd] at h
    cases h
    exact .inl ⟨hd, rfl⟩
  · rw [push_advance_outside _ hd] at h
    cases h

theorem push_ok {s t : State} {d : Sample} (h : push d s = .ok t) :
    (depth s = cap s ∧ t = s) ∨
      (depth s < cap s ∧ t = (s.setTop (s.top + 1)).setStack (s.stack.setIfInBounds (depth s) d)) := by
  rcases Nat.lt_trichotomy (depth s) (cap s) with hd | hd | hd
  · rw [push_room _ hd] at h
    cases h
    exact .inr ⟨hd, rfl⟩
  · rw [push_full _ hd] at h
    cases h
    exact .inl ⟨hd, rfl⟩
  · rw [push_outside _ hd] at h
    cases h

theorem pop_ok {s t : State} {v : Sample} (h : pop s = .ok (v, t)) :
    (depth s = 0 ∧ v = s.cfg.sentinel ∧ t = s) ∨
      (∃ n, depth s = n + 1 ∧ n < cap s ∧ v = slot s n ∧ t = s.setTop (s.top - 1)) := by
  by_cases h0 : depth s = 0
  · rw [pop_empty h0] at h
    cases h
    exact .inl ⟨h0, rfl, rfl⟩
  · obtain ⟨n, hn⟩ : ∃ n, depth s = n + 1 := ⟨depth s - 1, by omega⟩
    by_cases hc : n < cap s
    · rw [pop_held hn hc] at h
      cases h
      exact .inr ⟨n, hn, hc, rfl, rfl⟩
    · rw [pop_outside (by omega)] at h
      cases h

theorem drain_ok {s t : State} (h : drain s = .ok t) :
    depth s ≤ cap s ∧ t = emit .flush (emit (.line (held s).reverse) (s.setTop emptyTop)) := by
  by_cases hd : depth s ≤ cap s
  · rw [drain_held hd] at h
    cases h
    exact ⟨hd, rfl⟩
  · rw [drain_outside (by omega)] at h
    cases h

theorem finish_next {e : Except Fault State} {t : State} (h : finish e = .next t) : e = .ok t := by
  cases e with
  | ok u =>
    cases h
    rfl
  | error f => cases h

theorem map_ok {α β : Type} {e : Except Fault α} {f : α → β} {b : β} (h : e.map f = .ok b) :
    ∃ a, e = .ok a ∧ b = f a := by
  cases e with
  | ok a =>
    cases h
    exact ⟨a, rfl, rfl⟩
  | error f => cases h

theorem admission_none {m : Mode} {v : Variant} {i : Instr} (h : admission m v i = none) :
    i.admittedIn m = true ∧ i.presentIn v = true := by
  unfold admission at h
  cases ha : i.admittedIn m <;> cases hp : i.presentIn v <;> simp [ha, hp] at h
  exact ⟨rfl, rfl⟩

theorem ifNext_ok {a : CtlAction} {s t : State} {k : Result} (h : ifNext a s k = .next t) :
    ctlNext s = some a ∧ k = .next t :=
  (ifNext_next h).2

/-- Everything an operation can do when it answers a next state. -/
theorem exec_effect {i : Instr} {s t : State} (h : exec i s = .next t) : Effect i s t := by
  cases i with
  | reset => exact (Host.Outcome.next.inj (ifAdmitted_next (i := .reset) (k := .next (resetBlock s)) h).2.2).symm
  | tick => exact (Host.Outcome.next.inj (ifAdmitted_next (i := .tick) (k := .next (tickBlock s)) h).2.2).symm
  | convDone d => exact (Host.Outcome.next.inj (ifAdmitted_next h).2.2).symm
  | startConv =>
    obtain ⟨hc, hk⟩ := ifNext_ok h
    exact ⟨hc, (Host.Outcome.next.inj hk).symm⟩
  | wake =>
    obtain ⟨hc, hk⟩ := ifNext_ok h
    exact ⟨hc, (Host.Outcome.next.inj hk).symm⟩
  | consume =>
    obtain ⟨hc, hk⟩ := ifNext_ok h
    exact ⟨hc, consume_ok (finish_next hk)⟩
  | transmit =>
    obtain ⟨hc, hk⟩ := ifNext_ok h
    obtain ⟨u, hu, rfl⟩ := map_ok (finish_next hk)
    obtain ⟨hd, rfl⟩ := drain_ok hu
    exact ⟨hc, hd, rfl⟩
  | pass =>
    obtain ⟨hc, hk⟩ := ifNext_ok h
    exact ⟨hc, (Host.Outcome.next.inj hk).symm⟩
  | push d => exact push_ok (finish_next (ifAdmitted_next h).2.2)
  | pop =>
    obtain ⟨⟨v, u⟩, hu, rfl⟩ := map_ok (finish_next (ifAdmitted_next h).2.2)
    rcases pop_ok hu with ⟨h0, rfl, rfl⟩ | ⟨n, hn, hc, rfl, rfl⟩
    · exact .inl ⟨h0, rfl⟩
    · exact .inr ⟨n, hn, hc, rfl⟩
  | drain => exact drain_ok (finish_next (ifAdmitted_next h).2.2)
  | advanceSimple => exact (Host.Outcome.next.inj (ifAdmitted_next h).2.2).symm
  | nextChan => exact (Host.Outcome.next.inj (ifAdmitted_next h).2.2).symm
  | nextMux => exact (Host.Outcome.next.inj (ifAdmitted_next h).2.2).symm

/-- An operation that answers a next state is admitted in the trace's mode and present in the variant, under an accepted
configuration. -/
theorem exec_admitted {i : Instr} {s t : State} (h : exec i s = .next t) :
    s.cfg.wf = true ∧ i.admittedIn s.trace.mode = true ∧ i.presentIn s.cfg.variant = true := by
  have hk : ∃ k, exec i s = ifAdmitted i s k := by
    cases i <;> exact ⟨_, rfl⟩
  obtain ⟨k, hk⟩ := hk
  rw [hk] at h
  obtain ⟨hw, ha, -⟩ := ifAdmitted_next h
  exact ⟨hw, admission_none ha⟩

end Sys2Proof.Machine
end

