-- ==== Sys2Proof/Laws/PerInstr.lean ====
section
/-! SUPPORT. Statements about every operation as syntax, one lemma per constructor of Instr. -/

namespace Sys2Proof.Laws.EncodingFields

/-- The three fields of an operation's word are its OP code, a zero RSV and its operand (30_encoding.md R70, R72), and
its OP code is not a reserved one (R80). -/
def Statement (i : Instr) : Prop :=
  opField (encode i) = i.opcode ∧ rsvField (encode i) = 0 ∧ dataField (encode i) = i.data ∧
    i.opcode ≠ 0x0 ∧ i.opcode ≠ 0xF

/-- The fields of a word put together from three fields. -/
theorem fields_of_parts (op : BitVec 4) (d : Sample) :
    opField (op ++ ((0 : BitVec 12) ++ d)) = op ∧ rsvField (op ++ ((0 : BitVec 12) ++ d)) = 0 ∧
      dataField (op ++ ((0 : BitVec 12) ++ d)) = d := by
  refine ⟨?_, ?_, ?_⟩
  · rw [opField, BitVec.extractLsb'_append_eq_of_le (by omega)]
    simp
  · rw [rsvField, BitVec.extractLsb'_append_eq_of_add_le (by omega), BitVec.extractLsb'_append_eq_of_le (by omega)]
    simp
  · rw [dataField, BitVec.extractLsb'_append_eq_of_add_le (by omega),
      BitVec.extractLsb'_append_eq_of_add_le (by omega)]
    simp

theorem of_opcode (i : Instr) (h : i.opcode ≠ 0x0 ∧ i.opcode ≠ 0xF) : Statement i :=
  let f := fields_of_parts i.opcode i.data
  ⟨f.1, f.2.1, f.2.2, h⟩

theorem reset : Statement .reset := of_opcode _ ⟨by decide, by decide⟩

theorem tick : Statement .tick := of_opcode _ ⟨by decide, by decide⟩

theorem convDone (d : Sample) : Statement (.convDone d) := of_opcode _ ⟨by simp [Instr.opcode], by simp [Instr.opcode]⟩

theorem startConv : Statement .startConv := of_opcode _ ⟨by decide, by decide⟩

theorem wake : Statement .wake := of_opcode _ ⟨by decide, by decide⟩

theorem consume : Statement .consume := of_opcode _ ⟨by decide, by decide⟩

theorem transmit : Statement .transmit := of_opcode _ ⟨by decide, by decide⟩

theorem pass : Statement .pass := of_opcode _ ⟨by decide, by decide⟩

theorem push (d : Sample) : Statement (.push d) := of_opcode _ ⟨by simp [Instr.opcode], by simp [Instr.opcode]⟩

theorem pop : Statement .pop := of_opcode _ ⟨by decide, by decide⟩

theorem drain : Statement .drain := of_opcode _ ⟨by decide, by decide⟩

theorem advanceSimple : Statement .advanceSimple := of_opcode _ ⟨by decide, by decide⟩

theorem nextChan : Statement .nextChan := of_opcode _ ⟨by decide, by decide⟩

theorem nextMux : Statement .nextMux := of_opcode _ ⟨by decide, by decide⟩

end Sys2Proof.Laws.EncodingFields
end

