-- ==== Sys2Proof/Laws/Sequencer.lean ====
section
/-! SUPPORT. The sequencer of EXTENDED as a machine of its own six fields, which can be run through a whole period by
evaluation (`Sqr`), and what the steps of a state do to those fields; the tick counter below its threshold. Claims about
many advances are proved on `Sqr`. -/

namespace Sys2Proof.Machine

open Sys2Proof.Safety

/-- The six fields NEXT_CHAN and NEXT_MUX write. -/
structure Sqr where
  chan : BitVec 4
  sub : BitVec 2
  mcount : BitVec 4
  side : Side
  muxA : BitVec 4
  muxB : BitVec 4
  deriving DecidableEq

/-- The sequencer of a state. -/
def seqOf (s : State) : Sqr := ⟨s.chan, s.sub, s.mcount, s.side, s.muxA, s.muxB⟩

/-- NEXT_CHAN on the six fields. -/
def Sqr.chanStep (q : Sqr) : Sqr :=
  if q.sub.toNat + 1 = (if q.chan.toNat < 8 then 4 else 1)
    then { q with sub := 0, chan := BitVec.ofNat 4 ((q.chan.toNat + 1) % 10) }
    else { q with sub := q.sub + 1 }

/-- NEXT_MUX on the six fields. -/
def Sqr.muxStep (q : Sqr) : Sqr :=
  if 8 ≤ q.chan.toNat then q
  else if q.mcount = 15 then
    match q.side with
    | .a => { q with mcount := 0, side := .b, muxB := 0 }
    | .b => { q with mcount := 0, side := .a, muxA := 0 }
  else
    match q.side with
    | .a => { q with mcount := q.mcount + 1, muxA := q.mcount + 1 }
    | .b => { q with mcount := q.mcount + 1, muxB := q.mcount + 1 }

/-- `advance` on the six fields. -/
def Sqr.adv (q : Sqr) : Sqr := q.chanStep.muxStep

/-- `n` advances. -/
def Sqr.advN : Nat → Sqr → Sqr
  | 0, q => q
  | n + 1, q => (Sqr.advN n q).adv

/-- `n` calls of NEXT_CHAN. -/
def Sqr.chanN : Nat → Sqr → Sqr
  | 0, q => q
  | n + 1, q => (Sqr.chanN n q).chanStep

theorem Sqr.advN_add (a b : Nat) (q : Sqr) : Sqr.advN (a + b) q = Sqr.advN a (Sqr.advN b q) := by
  induction a with
  | zero => rw [Nat.zero_add]; rfl
  | succ a ih => rw [Nat.succ_add, Sqr.advN, Sqr.advN, ih]

/-- NEXT_CHAN's channel and sub-count depend on the channel and sub-count only. -/
theorem Sqr.chanStep_congr {q r : Sqr} (hc : q.chan = r.chan) (hs : q.sub = r.sub) :
    q.chanStep.chan = r.chanStep.chan ∧ q.chanStep.sub = r.chanStep.sub := by
  unfold Sqr.chanStep
  rw [hc, hs]
  by_cases h : r.sub.toNat + 1 = (if r.chan.toNat < 8 then 4 else 1)
  · rw [if_pos h, if_pos h]
    exact ⟨rfl, rfl⟩
  · rw [if_neg h, if_neg h]
    exact ⟨rfl, rfl⟩

/-- NEXT_MUX leaves the channel and the sub-count. -/
theorem Sqr.muxStep_frame (q : Sqr) : q.muxStep.chan = q.chan ∧ q.muxStep.sub = q.sub := by
  unfold Sqr.muxStep
  split
  · exact ⟨rfl, rfl⟩
  · split <;> cases q.side <;> exact ⟨rfl, rfl⟩

/-! The projection. -/

theorem seqOf_nextChan (s : State) : seqOf (nextChan s) = (seqOf s).chanStep := by
  have key : ∀ p : Prop, [Decidable p] →
      seqOf (if p then { s with sub := 0, chan := BitVec.ofNat 4 ((s.chan.toNat + 1) % 10) }
        else { s with sub := s.sub + 1 }) =
      if p then { seqOf s with sub := 0, chan := BitVec.ofNat 4 ((s.chan.toNat + 1) % 10) }
        else { seqOf s with sub := s.sub + 1 } := by
    intro p _
    split <;> rfl
  rw [nextChan_eq]
  exact key _

theorem seqOf_nextMux (s : State) : seqOf (nextMux s) = (seqOf s).muxStep := by
  by_cases h : 8 ≤ s.chan.toNat
  · rw [nextMux_reference h, Sqr.muxStep, if_pos (show 8 ≤ (seqOf s).chan.toNat from h)]
  · have h' : ¬8 ≤ (seqOf s).chan.toNat := h
    by_cases hm : s.mcount = 15
    · rw [nextMux_wrap (by omega) hm, Sqr.muxStep, if_neg h', if_pos (show (seqOf s).mcount = 15 from hm)]
      cases hs : s.side <;> simp [seqOf, hs]
    · rw [nextMux_count (by omega) hm, Sqr.muxStep, if_neg h', if_neg (show ¬(seqOf s).mcount = 15 from hm)]
      cases hs : s.side <;> simp [seqOf, hs]

theorem seqOf_advance {s : State} (h : s.cfg.variant = .extended) : seqOf (advance s) = (seqOf s).adv := by
  rw [advance_of_extended h, seqOf_nextMux, seqOf_nextChan]
  rfl

theorem advance_cfg (s : State) : (advance s).cfg = s.cfg := by rw [advance_frame s]

theorem advanceN_cfg (n : Nat) (s : State) : (advanceN n s).cfg = s.cfg := by
  induction n with
  | zero => rfl
  | succ n ih => rw [advanceN, advance_cfg, ih]

theorem seqOf_advanceN {s : State} (h : s.cfg.variant = .extended) (n : Nat) :
    seqOf (advanceN n s) = (seqOf s).advN n := by
  induction n with
  | zero => rfl
  | succ n ih =>
    rw [advanceN, seqOf_advance (by rw [advanceN_cfg]; exact h), ih]
    rfl

theorem seqOf_nextChanN (n : Nat) (s : State) : seqOf (nextChanN n s) = (seqOf s).chanN n := by
  induction n with
  | zero => rfl
  | succ n ih =>
    rw [nextChanN, seqOf_nextChan, ih]
    rfl

/-- NEXT_CHAN any number of times writes the channel and the sub-count only. -/
theorem nextChanN_frame (n : Nat) (s : State) :
    nextChanN n s = { s with chan := (nextChanN n s).chan, sub := (nextChanN n s).sub } := by
  induction n with
  | zero => rfl
  | succ n ih =>
    have e := nextChan_frame (nextChanN n s)
    simp only [nextChanN]
    rw [e, ih]

/-! The sweep table. -/

/-- Row `k` of the sweep table, with `b` for `mux_b` in the rows that leave it. -/
def rowSqr (k : Nat) (b : BitVec 4) : Sqr :=
  if k < 16 then ⟨BitVec.ofNat 4 (k / 4), BitVec.ofNat 2 (k % 4), BitVec.ofNat 4 k, .a, BitVec.ofNat 4 k, b⟩
  else if k < 32 then
    ⟨BitVec.ofNat 4 (k / 4), BitVec.ofNat 2 (k % 4), BitVec.ofNat 4 (k - 16), .b, 15, BitVec.ofNat 4 (k - 16)⟩
  else if k < 34 then ⟨BitVec.ofNat 4 (k - 24), 0, 15, .b, 15, 15⟩
  else ⟨0, 0, 0, .a, 0, 15⟩

set_option maxRecDepth 4000 in
/-- An advance goes to the next row. -/
theorem rowSqr_adv : ∀ k < 34, ∀ b : BitVec 4, (rowSqr k b).adv = rowSqr (k + 1) b := by decide

/-- Phase-locking in EXTENDED says that the sequencer is a row of the table. -/
theorem phaseLocked_extended {s : State} (hv : s.cfg.variant = .extended) :
    PhaseLocked s ↔ ∃ b, (b = 0 ∨ b = 15) ∧ seqOf s = rowSqr s.convCount.toNat b := by
  simp only [PhaseLocked, rowSqr, seqOf, hv]
  split
  · simp only [Sqr.mk.injEq]
    constructor
    · rintro ⟨hc, hs, hm, hd, ha, hb⟩
      exact ⟨s.muxB, hb, hc, hs, hm, hd, ha, rfl⟩
    · rintro ⟨b, hb, hc, hs, hm, hd, ha, rfl⟩
      exact ⟨hc, hs, hm, hd, ha, hb⟩
  · split
    · simp only [Sqr.mk.injEq]
      exact ⟨fun h => ⟨0, .inl rfl, h⟩, fun ⟨_, _, h⟩ => h⟩
    · split <;> simp only [Sqr.mk.injEq] <;> exact ⟨fun h => ⟨0, .inl rfl, h⟩, fun ⟨_, _, h⟩ => h⟩

/-- Phase-locking in SIMPLE. -/
theorem phaseLocked_simple {s : State} (hv : s.cfg.variant = .simple) :
    PhaseLocked s ↔ s.ctr.toNat % 16 = s.convCount.toNat % 16 := by
  simp only [PhaseLocked, hv]

/-- Phase-locking reads the configuration, the sequencer's fields and the conversion counter only. -/
theorem phaseLocked_congr {s t : State} (hg : t.cfg = s.cfg) (hq : seqOf t = seqOf s) (hr : t.ctr = s.ctr)
    (hn : t.convCount = s.convCount) : PhaseLocked t ↔ PhaseLocked s := by
  simp only [seqOf, Sqr.mk.injEq] at hq
  obtain ⟨hc, hs, hm, hd, ha, hb⟩ := hq
  unfold PhaseLocked
  rw [hg, hr, hn, hc, hs, hm, hd, ha, hb]

/-! The tick counter. -/

/-- The counter's width holds every value up to the threshold. -/
theorem threshold_le_width (t : Nat) : t ≤ 2 ^ tickWidth t := by
  unfold tickWidth
  split
  · exact le_trans (by omega) (Nat.one_le_two_pow (n := max 1 0))
  · have h := @Nat.lt_log2_self (t - 1)
    rw [Nat.max_eq_right (by omega)]
    omega

/-- TICK in EXTENDED with the counter below its threshold. -/
theorem tickBlock_below {s : State} (hv : s.cfg.variant = .extended) (h : s.tickCount < s.cfg.tickThreshold) :
    tickBlock s =
      { s with
        tickCount := (s.tickCount + 1) % s.cfg.tickThreshold
        sweepFlag := s.sweepFlag || decide (s.tickCount + 1 = s.cfg.tickThreshold) } := by
  have hw := threshold_le_width s.cfg.tickThreshold
  simp only [tickBlock, hv]
  by_cases e : s.tickCount + 1 = s.cfg.tickThreshold
  · simp [e]
    rfl
  · rw [if_neg e, Nat.mod_eq_of_lt (by omega), Nat.mod_eq_of_lt (by omega)]
    simp [e]
    rfl

end Sys2Proof.Machine
end

