-- ==== Sys2Proof/Tests/Slice0.lean ====
section
/-! SUPPORT. Tests of the model and witnesses of the statements' hypotheses. Every expected value is from
95_test_vectors.md (its vector is named in the test) or written out from the rule named. -/

namespace Sys2Proof.Tests

open Sys2Proof.Machine Sys2Proof.Safety

/-! ## States -/

/-- SIMPLE, with some SENTINEL and NEWLINE. -/
def cfgS : Config := { variant := .simple, tickThreshold := 3, sentinel := 0xBEEF, newline := [13, 10] }

/-- EXTENDED with TICK_THRESHOLD 3, as the vectors of 95 use. -/
def cfgE : Config := { variant := .extended, tickThreshold := 3, sentinel := 0xBEEF, newline := [13, 10] }

/-- The reset state of a UNIT trace, SIMPLE. -/
def unitS : State := State.powerOn cfgS { mode := .unit, words := [] }

/-- The reset state of a UNIT trace, EXTENDED. -/
def unitE : State := State.powerOn cfgE { mode := .unit, words := [] }

/-- The reset state of a SYSTEM trace, SIMPLE. -/
def sysS : State := State.powerOn cfgS { mode := .system, words := [] }

/-- The reset state of a SYSTEM trace, EXTENDED. -/
def sysE : State := State.powerOn cfgE { mode := .system, words := [] }

/-- The state with a stack of the given words. -/
def withStack (ws : List Sample) (s : State) : State :=
  { s with
    top := BitVec.ofNat 7 ws.length - 1
    stack := Vector.ofFn fun i => (ws[i.val]?).getD 0 }

/-- The values `10, 20, ..., 10 * n`. -/
def tens (n : Nat) : List Sample := (List.range n).map fun i => BitVec.ofNat 16 (10 * (i + 1))

/-- EXTENDED after the last CONSUME of a sweep (V-ACT-7's end state). -/
def fullE : State :=
  { withStack (tens 34) sysE with muxB := 15, convCount := 34, sweepFlag := true, phase := .xmit }

/-- What a function reads of a next state. -/
def read {α : Type} (r : Result) (f : State → α) : Option α :=
  match r with
  | .next t => some (f t)
  | .fault _ => none
  | .refused _ => none

/-- What a function reads of the next state an operation gives. -/
def after {α : Type} (i : Instr) (s : State) (f : State → α) : Option α := read (exec i s) f

/-- What a function reads of the state after a step. -/
def ofStep {α : Type} (s : State) (f : State → α) : Option α := read (step s) f

/-- The reason an operation is refused for. -/
def refusal (r : Result) : Option Refusal :=
  match r with
  | .next _ => none
  | .fault _ => none
  | .refused e => some e

/-- The operation answers a next state. -/
def completes (i : Instr) (s : State) : Bool := (after i s fun _ => ()).isSome

theorem completes_next {i : Instr} {s : State} (h : completes i s = true) : ∃ t, exec i s = .next t := by
  unfold completes after at h
  cases hx : exec i s with
  | next t => exact ⟨t, rfl⟩
  | fault f => simp [hx, read] at h
  | refused e => simp [hx, read] at h

/-! ## Decoding (95, 2.1) -/

/-- V-DEC-1, V-DEC-2, V-DEC-3: one word of each class, bit by bit from R70 and R71. -/
theorem test_decode_classes :
    decodeIn .system .simple 0b00010000000000000000000000000000 = .ok .reset ∧
    decodeIn .system .simple 0b00110000000000000000000000101010 = .ok (.convDone 42) ∧
    decodeIn .unit .simple 0b10010000000000000000000010100000 = .ok (.push 160) := by decide

/-- V-DEC-4, V-DEC-5: the operand's ends. -/
theorem test_decode_operand_ends :
    decodeIn .system .simple 0x3000FFFF = .ok (.convDone 65535) ∧
    decodeIn .unit .simple 0x90000000 = .ok (.push 0) := by decide

/-- V-DEC-6, V-DEC-7, V-DEC-8: the reserved codes, before the reserved bits. -/
theorem test_decode_reserved_op :
    decodeIn .unit .simple 0x00000000 = .error .reservedOp ∧
    decodeIn .unit .simple 0xF0000000 = .error .reservedOp ∧
    decodeIn .unit .simple 0x00010000 = .error .reservedOp := by decide

/-- V-DEC-9, V-DEC-10. -/
theorem test_decode_reserved_bits :
    decodeIn .unit .simple 0x10010000 = .error .reservedBits ∧
    decodeIn .system .simple 0x30010005 = .error .reservedBits := by decide

/-- V-DEC-11, V-DEC-12. -/
theorem test_decode_nonzero_data :
    decodeIn .system .simple 0x40000001 = .error .nonzeroData ∧
    decodeIn .system .simple 0x20000001 = .error .nonzeroData := by decide

/-- V-DEC-13, V-DEC-14, V-DEC-15, V-DEC-19: the mode, before the variant. -/
theorem test_decode_wrong_mode :
    decodeIn .system .simple 0x9000000A = .error .wrongMode ∧
    decodeIn .unit .simple 0x3000000A = .error .wrongMode ∧
    decodeIn .unit .simple 0x40000000 = .error .wrongMode ∧
    decodeIn .system .extended 0xC0000000 = .error .wrongMode := by decide

/-- V-DEC-16, V-DEC-17, V-DEC-18. -/
theorem test_decode_wrong_variant :
    decodeIn .unit .extended 0xC0000000 = .error .wrongVariant ∧
    decodeIn .unit .simple 0xD0000000 = .error .wrongVariant ∧
    decodeIn .unit .simple 0xE0000000 = .error .wrongVariant := by decide

/-- The OP column of R71, one word for each controller action. -/
theorem test_decode_actions :
    decode 0b01000000000000000000000000000000 = .ok .startConv ∧
    decode 0b01010000000000000000000000000000 = .ok .wake ∧
    decode 0b01100000000000000000000000000000 = .ok .consume ∧
    decode 0b01110000000000000000000000000000 = .ok .transmit ∧
    decode 0b10000000000000000000000000000000 = .ok .pass := by decide

/-- The OP column of R71, the micro-operations and TICK. -/
theorem test_decode_units :
    decode 0b00100000000000000000000000000000 = .ok .tick ∧
    decode 0b10100000000000000000000000000000 = .ok .pop ∧
    decode 0b10110000000000000000000000000000 = .ok .drain ∧
    decode 0b11000000000000000000000000000000 = .ok .advanceSimple ∧
    decode 0b11010000000000000000000000000000 = .ok .nextChan ∧
    decode 0b11100000000000000000000000000000 = .ok .nextMux := by decide

/-- The table's rows, as the host asks for them. -/
theorem test_decode_table_word :
    decodeTableWord 32 0x30000000 = some (.convDone 0) ∧ decodeTableWord 32 0xE0000000 = some .nextMux ∧
    decodeTableWord 32 0xF0000000 = none ∧ decodeTableWord 33 0x10000000 = none := by decide

/-- R81's two encodings. -/
theorem test_encode_examples : encode (.convDone 42) = 0x3000002A ∧ encode (.push 160) = 0x900000A0 := by decide

/-! ## What a model rejects -/

/-- R7: the parameter table agrees; REF_HOLD 4 (90 C1's overruled figure) or a capacity of 33 does not. -/
theorem test_parameters_agree :
    (paramsOf .extended).agree = true ∧ ({ paramsOf .extended with refHold := 4 } : Params).agree = false ∧
    ({ paramsOf .extended with cap := 33 } : Params).agree = false ∧
    ({ paramsOf .extended with muxPeriod := 8 } : Params).agree = false := by decide

/-- 93 U3: a threshold of 0 is ill formed in EXTENDED only. -/
theorem test_ill_formed_threshold :
    cfgE.wf = true ∧ ({ cfgE with tickThreshold := 0 } : Config).wf = false ∧
    ({ cfgS with tickThreshold := 0 } : Config).wf = true := by decide

/-- R76, R77: an operation outside its mode, and one outside its variant. -/
theorem test_ill_formed_operation :
    Instr.wf .system .simple (.push 1) = false ∧ Instr.wf .unit .simple .nextMux = false ∧
    Instr.wf .unit .extended .nextMux = true := by decide

/-! ## Micro-operations (95, 2.2 to 2.4) -/

/-- V-BUF-2. -/
theorem test_push_appends : after (.push 7) (withStack [1, 2, 3] unitS) held = some [1, 2, 3, 7] := by decide

/-- V-BUF-4, V-BUF-5: a full stack of either variant. -/
theorem test_push_full :
    after (.push 7) (withStack (tens 16) unitS) id = some (withStack (tens 16) unitS) ∧
    after (.push 7) (withStack (tens 34) unitE) id = some (withStack (tens 34) unitE) := by decide

/-- V-BUF-6. -/
theorem test_pop_last :
    after .pop (withStack [10, 20] unitS) (fun t => (held t, t.out)) = some ([10], [.popped 20]) := by decide

/-- V-BUF-8: the empty stack returns SENTINEL. -/
theorem test_pop_empty : after .pop unitS (fun t => (t.top, t.out)) = some (-1, [.popped 0xBEEF]) := by decide

/-- V-BUF-9. -/
theorem test_drain_reverses :
    after .drain (withStack [10, 20, 30] unitS) (fun t => (t.top, t.out)) =
      some (-1, [.line [30, 20, 10], .flush]) := by decide

/-- V-BUF-10. -/
theorem test_drain_empty : after .drain unitS (fun t => t.out) = some [.line [], .flush] := by decide

/-- V-SEQ-S-3, V-SEQ-S-5. -/
theorem test_advance_simple :
    after .advanceSimple { unitS with ctr := 15 } (fun t => (t.ctr, selChan t)) = some (16, 0) ∧
    after .advanceSimple { unitS with ctr := 255 } (fun t => (t.ctr, selChan t)) = some (0, 0) := by decide

/-- V-NC-3. -/
theorem test_next_chan_leaves :
    after .nextChan { unitE with chan := 7, sub := 3 } (fun t => (t.chan, t.sub)) = some (8, 0) := by decide

/-- V-NC-4, V-NC-5: the reference channels. -/
theorem test_next_chan_reference :
    after .nextChan { unitE with chan := 8 } (fun t => (t.chan, t.sub)) = some (9, 0) ∧
    after .nextChan { unitE with chan := 9 } (fun t => (t.chan, t.sub)) = some (0, 0) := by decide

/-- V-NM-3: the wrap on side B. -/
theorem test_next_mux_wraps :
    after .nextMux { unitE with mcount := 15, side := .b, muxA := 15, muxB := 15 }
      (fun t => (t.mcount, t.side, t.muxA, t.muxB)) = some (0, .a, 0, 15) := by decide

/-- V-NM-6, V-NM-4. -/
theorem test_next_mux_counts :
    after .nextMux { unitE with chan := 7, mcount := 5, side := .b, muxB := 5 } (fun t => (t.mcount, t.muxB)) =
      some (6, 6) ∧
    after .nextMux { unitE with chan := 8, mcount := 15, side := .b } id =
      some { unitE with chan := 8, mcount := 15, side := .b } := by decide

/-! ## Events (95, 2.5) -/

/-- V-EV-3: a sample is lost. -/
theorem test_conv_done_overwrites :
    after (.convDone 6) { sysS with measReady := true, rawSample := 5 } (fun t => (t.rawSample, t.measReady)) =
      some (6, true) := by decide

/-- V-EV-1. -/
theorem test_conv_done_in_wait :
    after (.convDone 42) { sysS with phase := .wait, convPending := true }
      (fun t => (t.phase, t.convPending, ctlNext t)) = some (.wait, false, some .wake) := by decide

/-- V-EV-5, V-EV-7. -/
theorem test_tick_at_threshold :
    after .tick { unitE with tickCount := 2 } (fun t => (t.tickCount, t.sweepFlag)) = some (0, true) ∧
    after .tick { unitE with cfg := { cfgE with tickThreshold := 1 } } (fun t => (t.tickCount, t.sweepFlag)) =
      some (0, true) := by decide

/-- V-EV-9. -/
theorem test_tick_simple : after .tick sysS id = some sysS := by decide

/-- V-EV-10: mid-sweep, in WAIT; the output trace keeps its records. -/
theorem test_reset_mid_sweep :
    after .reset
      { withStack (tens 6) sysE with
        convCount := 6, chan := 1, sub := 2, phase := .wait, convPending := true, out := [.flush] }
      (fun t => (t.phase, t.top, t.convCount, t.chan, t.out)) = some (.start, -1, 0, 0, [.flush]) := by decide

/-- V-EV-12. -/
theorem test_reset_idempotent : after .reset sysE id = some sysE := by decide

/-! ## The controller (95, 2.6 and 2.7) -/

/-- V-CTL-1, V-CTL-2, V-CTL-4, V-CTL-5, V-CTL-14. -/
theorem test_ctl_next_start :
    ctlNext sysS = some .startConv ∧ ctlNext sysE = none ∧ ctlNext { sysS with measReady := true } = some .pass ∧
    ctlNext (withStack (tens 16) sysS) = some .pass ∧
    ctlNext { withStack (tens 34) sysE with sweepFlag := true } = none := by decide

/-- V-CTL-6, V-CTL-9, V-CTL-10, V-CTL-11, V-CTL-12, V-CTL-13. -/
theorem test_ctl_next_later :
    ctlNext { sysS with phase := .wait, convPending := true } = none ∧
    ctlNext { sysS with phase := .consume } = some .pass ∧
    ctlNext { withStack (tens 34) sysE with phase := .xmit, convCount := 34 } = some .transmit ∧
    ctlNext { sysE with phase := .xmit, convCount := 5 } = some .pass ∧
    ctlNext { withStack (tens 16) sysS with phase := .xmit } = some .transmit ∧
    ctlNext { withStack (tens 15) sysS with phase := .xmit } = some .pass := by decide

/-- V-ACT-2. -/
theorem test_start_conv :
    after .startConv { sysS with ctr := 5 } (fun t => (t.convPending, t.phase, t.out)) =
      some (true, .wait, [.start 5 0 0]) := by decide

/-- V-DEC-21, V-DEC-20: not the controller's next action. -/
theorem test_not_enabled :
    refusal (exec .pass sysE) = some .notEnabled ∧ refusal (exec .consume sysS) = some .notEnabled := by decide

/-- V-ACT-3. -/
theorem test_wake :
    after .wake { sysS with phase := .wait, measReady := true } (fun t => t.phase) = some .consume := by decide

/-- V-ACT-4. -/
theorem test_consume_first :
    after .consume { sysE with phase := .consume, measReady := true, rawSample := 42 }
      (fun t => (t.sub, t.muxA, held t, t.convCount, t.phase)) = some (1, 1, [42], 1, .xmit) := by decide

/-- V-ACT-7. -/
theorem test_consume_last :
    after .consume
      { withStack (tens 33) sysE with
        chan := 9, mcount := 15, side := .b, muxA := 15, muxB := 15, convCount := 33, measReady := true,
        phase := .consume }
      (fun t => (t.chan, t.side, t.muxA, t.top, ctlNext t)) = some (0, .a, 0, 33, some .transmit) := by decide

/-- V-ACT-9. -/
theorem test_transmit :
    after .transmit { withStack (tens 16) sysS with phase := .xmit, convCount := 16 }
      (fun t => (t.top, t.convCount, t.phase, ctlNext t, t.out)) =
      some (-1, 0, .start, some .startConv, [.line (tens 16).reverse, .flush]) := by decide

/-- V-ACT-11, V-ACT-12. -/
theorem test_pass :
    after .pass { sysS with phase := .consume } (fun t => t.phase) = some .xmit ∧
    after .pass { sysE with phase := .xmit, convCount := 5 } (fun t => t.phase) = some .start := by decide

/-! ## Stepping -/

/-- A word placed in the reset state of the other mode or variant runs at the next step. -/
theorem test_fetch_word :
    ofStep (sysS.withFetchWord 32 0x90000007) held = some [7] ∧
    ofStep (sysS.withFetchWord 32 0xD0000000) (fun t => (t.sub, t.cfg.variant, t.trace)) =
      some (1, .extended, { mode := .unit, words := [] }) := by
  decide

/-- From `State.reset` itself, whose open values no proof can see: one word of each class runs as the next step. -/
theorem test_fetch_from_reset :
    (ofStep (State.reset.withFetchWord 32 0x30000005) (fun t => t.rawSample) = some 5) ∧
    (ofStep (State.reset.withFetchWord 32 0x40000000) (fun t => t.phase) = some .wait) ∧
    (ofStep (State.reset.withFetchWord 32 0xE0000000) (fun t => t.mcount) = some 1) ∧
    (ofStep (State.reset.withFetchWord 32 0xC0000000) (fun t => t.ctr) = some 1) := by decide

/-- A refused word, and the end of the trace. -/
theorem test_step_refusals :
    refusal (step { sysS with trace := { mode := .system, words := [0xF0000000] } }) = some (.word .reservedOp) ∧
    refusal (step sysS) = some .traceEnd := by decide

/-! ## The line, the ports and the assembler -/

/-- V-FMT-1, V-FMT-2, V-FMT-3: ASCII of `0042|`, `0000|`, `9999|`. -/
theorem test_tokens :
    token 42 = [48, 48, 52, 50, 124] ∧ token 0 = [48, 48, 48, 48, 124] ∧ token 9999 = [57, 57, 57, 57, 124] := by
  decide

/-- V-FMT-5, V-FMT-6: five digits. -/
theorem test_long_tokens :
    token 10000 = [49, 48, 48, 48, 48, 124] ∧ token 65535 = [54, 53, 53, 51, 53, 124] := by decide

/-- V-FMT-7, V-FMT-8. -/
theorem test_lines :
    lineTokens [7, 123, 4000] = [48, 48, 48, 55, 124, 48, 49, 50, 51, 124, 52, 48, 48, 48, 124] ∧
    lineText cfgS [] = [13, 10] := by decide

/-- W8 and W2: 80 characters before NEWLINE. -/
theorem test_line_length : (lineTokens (tens 16).reverse).length = 80 := by decide

/-- R225, R137. -/
theorem test_strobes :
    strobesOf (.line [30, 20]) = [.drainValid 30, .drainValid 20, .drainEol] ∧
    groupLines 0b0011 = [true, true, false, false] ∧ inputEvent (.adcDone 42) = .convDone 42 := by decide

/-- V-DEC-22, V-DEC-23. -/
theorem test_pseudo_operations :
    (sampleMacro 42).map encode = [0x40000000, 0x3000002A, 0x50000000, 0x60000000] ∧
    (ticksMacro 3).map encode = [0x20000000, 0x20000000, 0x20000000] := by decide

/-- R81's operands, decimal and hex, and one out of range. -/
theorem test_operands :
    sampleOperand ['0', 'x', '0', '0', 'A', '0'] = some 160 ∧ sampleOperand ['4', '2'] = some 42 ∧
    sampleOperand ['6', '5', '5', '3', '6'] = none := by decide

/-! ## Witnesses

For each statement with hypotheses, states and operands that meet them, one for each clause. -/

theorem witness_DecodedWordsAreCanonical : decode 0x3000FFFF = .ok (.convDone 0xFFFF) := by decide

/-- One word for each branch. -/
theorem witness_DecodeChecksInOrder :
    decodeIn .system .simple 0xFFFF0001 = .error .reservedOp ∧ decodeIn .system .simple 0xE8000001 = .error .reservedBits ∧
    decodeIn .system .simple 0xE0000001 = .error .nonzeroData ∧ decodeIn .system .simple 0xE0000000 = .error .wrongMode ∧
    decodeIn .unit .simple 0xE0000000 = .error .wrongVariant ∧ decodeIn .unit .extended 0xE0000000 = .ok .nextMux := by
  decide

theorem witness_StepRunsTheDecodedWord :
    sysS.trace.words = [] ∧
    ({ sysS with trace := { mode := .system, words := [0, 1] } } : State).trace.words = 0 :: [1] ∧
    decodeIn Mode.system cfgS.variant 0 = .error .reservedOp ∧
    decodeIn Mode.system cfgS.variant 0x10000000 = .ok .reset := by decide

theorem witness_OperationsStayInModeAndVariant :
    (sysS.cfg.wf = true ∧ sysS.trace.mode = .system ∧ Instr.pop.opClass = .microOperation) ∧
    (unitE.cfg.wf = true ∧ unitE.trace.mode = .unit ∧ Instr.wake.opClass = .controllerAction) ∧
    (∃ d, Instr.convDone 0 = .convDone d) ∧ unitE.cfg.variant = .extended ∧
    (unitS.cfg.wf = true ∧ unitS.trace.mode = .unit ∧ unitS.cfg.variant = .simple) :=
  ⟨by decide, by decide, ⟨0, rfl⟩, by decide, by decide⟩

/-- Each of the three defects alone. -/
theorem witness_IllFormedConfigurationsAreRefused :
    cfgE.variant = .extended ∧
    (8 * 4 + (10 - 8) * ({ paramsOf .extended with refHold := 4 } : Params).refHold ≠ (paramsOf .extended).cap) ∧
    ((paramsOf .extended).nmux * (paramsOf .extended).hold ≠ 2 * ({ paramsOf .extended with muxPeriod := 8 } : Params).muxPeriod) ∧
    ({ cfgE with tickThreshold := 0 } : Config).tickThreshold = 0 ∧
    ({ unitE with cfg := { cfgE with tickThreshold := 0 } } : State).cfg.wf = false := by decide

/-- SYSTEM; a full stack; one slot free; the empty stack. -/
theorem witness_PushAppendsOrDiscards :
    (sysS.cfg.wf = true ∧ sysS.trace.mode = .system) ∧
    (unitS.cfg.wf = true ∧ unitS.trace.mode = .unit ∧ isFull (withStack (tens 16) unitS) = true) ∧
    (isFull (withStack (tens 15) unitS) = false ∧ TopInRange (withStack (tens 15) unitS)) ∧
    (isFull unitE = false ∧ TopInRange unitE) := by decide

/-- The empty stack; one word; a full stack. -/
theorem witness_PopRemovesTheLastOrReturnsSentinel :
    (sysS.cfg.wf = true ∧ sysS.trace.mode = .system) ∧ (unitS.trace.mode = .unit ∧ isEmpty unitS = true) ∧
    (isEmpty (withStack [10] unitS) = false ∧ TopInRange (withStack [10] unitS)) ∧
    (isEmpty (withStack (tens 34) unitE) = false ∧ TopInRange (withStack (tens 34) unitE)) := by decide

theorem witness_DrainEmitsTheStackReversed :
    (sysS.cfg.wf = true ∧ sysS.trace.mode = .system) ∧ (unitS.trace.mode = .unit ∧ TopInRange unitS) ∧
    TopInRange (withStack (tens 16) unitS) := by decide

/-- Sixteen pushes on the empty stack: the index's last value. -/
theorem witness_PopsReturnPushesInReverse :
    unitS.cfg.wf = true ∧ unitS.trace.mode = .unit ∧ TopInRange unitS ∧
    unitS.top.toInt + ((tens 16).length : Int) ≤ (cap unitS : Int) - 1 := by decide

theorem witness_PopsOfTheEmptyStackAreIdempotent :
    unitS.cfg.wf = true ∧ unitS.trace.mode = .unit ∧ isEmpty unitS = true ∧ TopInRange (withStack (tens 16) unitS) := by
  decide

theorem witness_DrainMovesTheStackOut :
    unitS.cfg.wf = true ∧ unitS.trace.mode = .unit ∧ TopInRange (withStack (tens 16) unitS) := by decide

/-- Two states that differ in a slot above `top`. -/
theorem witness_SlotsAboveTopAreUnobservable :
    AgreeToTop unitS { unitS with stack := unitS.stack.setIfInBounds 0 7 } ∧
    unitS ≠ { unitS with stack := unitS.stack.setIfInBounds 0 7 } :=
  ⟨⟨rfl, fun i h => by
    have h1 : unitS.top.toInt = -1 := by decide
    omega⟩, by decide⟩

theorem witness_StackIsAListOfSamples :
    unitS.cfg.wf = true ∧ unitS.trace.mode = .unit ∧ TopInRange unitS ∧ TopInRange (withStack (tens 16) unitS) := by
  decide

/-- The index next above the stack, and the one next below the empty stack. -/
theorem witness_StackOperationsFaultOutsideTheStack :
    unitS.cfg.wf = true ∧ unitS.trace.mode = .unit ∧ ¬TopInRange { unitS with top := 16 } ∧
    ¬TopInRange { unitS with top := 126 } := by decide

theorem witness_OperationsKeepOtherSlots :
    completes (.push 7) (withStack [1] unitS) = true ∧ storesTo (.push 7) (withStack [1] unitS) = some 1 ∧
    (some 1 : Option (BitVec 7)) ≠ some 0 ∧ completes .pop unitS = true ∧ storesTo .pop unitS = none := by decide

/-! The sequencer. -/

theorem witness_AdvanceSimpleCounts :
    (sysS.cfg.wf = true ∧ sysS.trace.mode = .system) ∧
    (unitE.cfg.wf = true ∧ unitE.trace.mode = .unit ∧ unitE.cfg.variant = .extended) ∧
    (unitS.cfg.wf = true ∧ unitS.trace.mode = .unit ∧ unitS.cfg.variant = .simple) := by decide

theorem witness_ChannelSelectFollowsState :
    ({ unitS with ctr := 255 } : State).cfg.variant = .simple ∧ unitE.cfg.variant = .extended := by decide

theorem witness_NextChanHoldsThenAdvances :
    (sysE.cfg.wf = true ∧ sysE.trace.mode = .system) ∧
    (unitS.cfg.wf = true ∧ unitS.trace.mode = .unit ∧ unitS.cfg.variant = .simple) ∧
    (unitE.cfg.wf = true ∧ unitE.trace.mode = .unit ∧ unitE.cfg.variant = .extended) := by decide

theorem witness_NextMuxCountsThenDrives :
    (sysE.cfg.wf = true ∧ sysE.trace.mode = .system) ∧
    (unitS.cfg.wf = true ∧ unitS.trace.mode = .unit ∧ unitS.cfg.variant = .simple) ∧
    (unitE.cfg.wf = true ∧ unitE.trace.mode = .unit ∧ unitE.cfg.variant = .extended) := by decide

theorem witness_AdvanceIsChannelThenMux :
    (unitS.cfg.wf = true ∧ unitS.trace.mode = .unit ∧ unitS.cfg.variant = .simple) ∧
    (unitE.cfg.wf = true ∧ unitE.trace.mode = .unit ∧ unitE.cfg.variant = .extended) := by decide

/-- The last multiplexed channel and both reference channels. -/
theorem witness_ChannelLeftAfterItsHold :
    (unitE.cfg.variant = .extended ∧ unitE.sub = 0 ∧ ({ unitE with chan := 7 } : State).chan.toNat < 8) ∧
    ({ unitE with chan := 8 } : State).chan = 8 ∧ ({ unitE with chan := 9 } : State).chan = 9 := by decide

theorem witness_ChannelPeriodIsThirtyFour : unitE.cfg.variant = .extended ∧ unitE.chan = 0 ∧ unitE.sub = 0 := by decide

/-- With the counter at 15 and below it. -/
theorem witness_DrivenGroupShowsTheCounter :
    (unitE.cfg.wf = true ∧ unitE.trace.mode = .unit ∧ unitE.cfg.variant = .extended) ∧
    (({ unitE with chan := 7, mcount := 15 } : State).chan.toNat < 8) ∧
    ({ unitE with chan := 7, mcount := 15 } : State).mcount = 15 ∧
    ({ unitE with chan := 7, mcount := 14 } : State).mcount ≠ 15 := by decide

theorem witness_SequencerIsPeriodic :
    (unitE.cfg.variant = .extended ∧ unitE.chan = 0 ∧ unitE.sub = 0 ∧ unitE.mcount = 0 ∧ unitE.side = .a) ∧
    (unitE.muxA = 0 ∧ unitE.muxB = 0 ∧ 32 % 34 = 66 % 34 ∧ 32 ≤ 32 ∧ 32 ≤ 66) ∧
    (unitS.cfg.variant = .simple ∧ unitS.ctr = 0 ∧ 15 % 16 = 271 % 16) := by decide

/-! Events. -/

theorem witness_ResetClearsAllButSamples : ({ sysE with phase := .wait, convPending := true } : State).cfg.wf = true := by
  decide

theorem witness_PowerOnIsReset : cfgE.wf = true ∧ sysE.cfg = cfgE ∧ sysE.trace = { mode := .system, words := [] } := by
  decide

theorem witness_ConvDoneLatchesTheSample :
    (unitS.cfg.wf = true ∧ unitS.trace.mode = .unit) ∧ (sysS.cfg.wf = true ∧ sysS.trace.mode = .system) := by decide

/-- Threshold 0; threshold 1, reached; threshold 3, one before the last tick. -/
theorem witness_TickCountsToTheThreshold :
    ({ unitE with cfg := { cfgE with tickThreshold := 0 } } : State).cfg.tickThreshold = 0 ∧
    unitE.cfg.variant = .extended ∧
    unitE.tickCount + 1 = ({ unitE with cfg := { cfgE with tickThreshold := 1 } } : State).cfg.tickThreshold ∧
    ({ unitE with tickCount := 2 } : State).tickCount + 1 = unitE.cfg.tickThreshold ∧
    ({ unitE with tickCount := 1 } : State).tickCount + 1 < unitE.cfg.tickThreshold := by decide

theorem witness_TickDoesNothingInSimple : sysS.cfg.variant = .simple := by decide

/-- Six ticks at threshold 3, and the tick after five. -/
theorem witness_TicksSetTheFlagEveryThreshold :
    (unitE.cfg.wf = true ∧ unitE.cfg.variant = .extended ∧ unitE.tickCount = 0) ∧
    (read (execAll (ticksMacro 5) unitE) (fun t => t.tickCount) = some 2 ∧
      ({ unitE with tickCount := 2 } : State).sweepFlag = false ∧ completes .tick { unitE with tickCount := 2 } = true) ∧
    completes .transmit { sysE with phase := .xmit, convCount := 34 } = true ∧
    (completes .pop unitE = true ∧ Instr.pop ≠ .tick ∧ Instr.pop ≠ .reset) := by decide

/-! The controller. -/

theorem witness_GuardsReadTheState : sysS.cfg.variant = .simple ∧ sysE.cfg.variant = .extended := by decide

/-- A state for each row of `ctl_next`, and one for each of the last two clauses. -/
theorem witness_ControllerTakesItsOneAction :
    (sysS.phase = .start ∧ startGuard sysS = true ∧ startGuard { sysS with measReady := true } = false ∧
      consumeGuard { sysS with measReady := true } = true) ∧
    (startGuard sysE = false ∧ consumeGuard sysE = false ∧ xmitGuard sysE = false) ∧
    (({ sysS with phase := .wait } : State).convPending = false ∧
      ({ sysS with phase := .wait, convPending := true } : State).convPending = true) ∧
    (xmitGuard { withStack (tens 16) sysS with phase := .xmit } = true ∧ xmitGuard { sysS with phase := .xmit } = false) ∧
    (sysS.cfg.wf = true ∧ sysS.trace.mode = .system ∧ TopInRange sysS ∧ ctlNext sysS = some .startConv ∧
      ctlNext sysS ≠ some .wake) := by decide

theorem witness_StartConvStartsAndWaits :
    (unitS.cfg.wf = true ∧ unitS.trace.mode = .unit) ∧
    (sysS.cfg.wf = true ∧ sysS.trace.mode = .system ∧ sysS.phase = .start ∧ startGuard sysS = true) ∧
    (startGuard { sysE with sweepFlag := true } = true) ∧ ¬(sysE.phase = .start ∧ startGuard sysE = true) := by decide

theorem witness_WakeEndsTheWait :
    (unitS.cfg.wf = true ∧ unitS.trace.mode = .unit) ∧ (sysS.cfg.wf = true ∧ sysS.trace.mode = .system) ∧
    (({ sysS with phase := .wait } : State).phase = .wait ∧ sysS.convPending = false) ∧
    ({ sysS with phase := .wait, convPending := true } : State).convPending = true ∧
    ¬(sysS.phase = .wait ∧ sysS.convPending = false) := by decide

/-- A full stack; one slot free; not CONSUME's phase. -/
theorem witness_ConsumeBuffersOneSample :
    (unitS.cfg.wf = true ∧ unitS.trace.mode = .unit) ∧ (sysS.cfg.wf = true ∧ sysS.trace.mode = .system) ∧
    (({ sysS with phase := .consume, measReady := true } : State).phase = .consume ∧
      isFull (withStack (tens 16) sysS) = true ∧ isFull (withStack (tens 15) sysS) = false ∧
      TopInRange (withStack (tens 15) sysS)) ∧
    ¬(sysS.phase = .consume ∧ sysS.measReady = true) := by decide

theorem witness_TransmitDrainsAndCloses :
    (unitS.cfg.wf = true ∧ unitS.trace.mode = .unit) ∧ (sysS.cfg.wf = true ∧ sysS.trace.mode = .system) ∧
    (xmitGuard { withStack (tens 16) sysS with phase := .xmit } = true ∧
      TopInRange { withStack (tens 16) sysS with phase := .xmit }) ∧
    ¬(sysS.phase = .xmit ∧ xmitGuard sysS = true) := by decide

/-- PASS in each of its three phases, and not PASS. -/
theorem witness_PassGoesToTheNextPhase :
    (unitS.cfg.wf = true ∧ unitS.trace.mode = .unit) ∧ (sysS.cfg.wf = true ∧ sysS.trace.mode = .system) ∧
    (ctlNext { sysS with measReady := true } = some .pass ∧ ctlNext { sysS with phase := .consume } = some .pass ∧
      ctlNext { sysS with phase := .xmit } = some .pass) ∧
    ctlNext sysS ≠ some .pass := by decide

theorem witness_AtMostOneControllerActionRuns : completes CtlAction.startConv.instr sysS = true := by decide

theorem witness_OnlyConvDoneOrResetEndsTheWait :
    (({ sysE with phase := .wait, convPending := true } : State).phase = .wait) ∧
    (completes .tick { sysE with phase := .wait, convPending := true } = true ∧ Instr.tick ≠ .reset) ∧
    completes (.convDone 42) { sysE with phase := .wait, convPending := true } = true ∧
    completes .reset { sysE with phase := .wait, convPending := true } = true := by decide

theorem witness_TickOnlyEnablesTheStart : completes .tick { sysE with tickCount := 2 } = true := by decide

/-- A change of each kind. -/
theorem witness_LatchesHaveOneSetterAndOneClearer :
    after (.convDone 1) sysS (fun t => (sysS.measReady, t.measReady)) = some (false, true) ∧
    after .reset { sysS with measReady := true } (fun t => t.measReady) = some false ∧
    after .tick { sysE with tickCount := 2 } (fun t => t.sweepFlag) = some true ∧
    after .transmit { sysE with phase := .xmit, convCount := 34, sweepFlag := true } (fun t => t.sweepFlag) =
      some false := by decide

theorem witness_SweepsAreGatedByTheFlag :
    (completes .startConv { sysE with sweepFlag := true } = true ∧ sysE.cfg.variant = .extended) ∧
    (completes .transmit { withStack (tens 34) sysE with phase := .xmit, convCount := 34 } = true ∧
      sysE.measReady = false ∧ sysE.convPending = false) := by decide

theorem witness_SampleRunsOneConversion :
    sysS.cfg.wf = true ∧ sysS.trace.mode = .system ∧ sysS.phase = .start ∧ startGuard sysS = true ∧ TopInRange sysS := by
  decide

/-- A sweep's operations with a TICK after each. -/
def tickedSweep (ds : List Sample) : List Instr := (sweepTrace ds).dropLast.flatMap fun i => [i, .tick]

set_option maxRecDepth 4000 in
/-- The sweep in both variants, TICKs inside it; then states that are phase locked at both ends of the table. -/
theorem witness_ASweepTransmitsItsSamplesReversed :
    (SweepStart sysS ∧ (tens 16).length = cap sysS ∧
      (tickedSweep (tens 16) ++ [Instr.transmit]).filter (fun i => i != Instr.tick) = sweepTrace (tens 16)) ∧
    (SweepStart { sysE with sweepFlag := true } ∧ (tens 34).length = cap { sysE with sweepFlag := true } ∧
      (tickedSweep (tens 34) ++ [Instr.transmit]).filter (fun i => i != Instr.tick) = sweepTrace (tens 34)) ∧
    (SystemInv { sysE with sweepFlag := true } ∧ PhaseLocked { sysE with sweepFlag := true } ∧
      completes .startConv { sysE with sweepFlag := true } = true) ∧
    (SystemInv fullE ∧ PhaseLocked fullE ∧ completes .transmit fullE = true) :=
  ⟨⟨⟨by decide, rfl, rfl, rfl, rfl, rfl, rfl, fun _ => rfl, fun h => by cases h⟩, by decide, by decide⟩,
    ⟨⟨by decide, rfl, rfl, rfl, rfl, rfl, rfl, fun h => (by cases h), fun _ => ⟨rfl, rfl, rfl, rfl, rfl, rfl⟩⟩,
      by decide, by decide⟩,
    ⟨⟨⟨by decide, by decide, by decide, by decide, by decide⟩, by decide, by decide, fun _ => by decide⟩,
      ⟨rfl, rfl, rfl, rfl, rfl, .inl rfl⟩, by decide⟩,
    ⟨⟨⟨by decide, by decide, by decide, by decide, by decide⟩, by decide, by decide, fun h => absurd rfl h⟩,
      ⟨rfl, rfl, rfl, rfl, rfl, rfl⟩, by decide⟩⟩

/-! Invariants. -/

theorem blockInv_unitE : BlockInv unitE := ⟨by decide, by decide, by decide, by decide, by decide⟩

theorem systemInv_sysE : SystemInv sysE :=
  ⟨⟨by decide, by decide, by decide, by decide, by decide⟩, by decide, by decide, fun _ => by decide⟩

theorem witness_EveryStepKeepsTheBlockInvariant :
    BlockInv (unitE.withFetchWord 32 0xE0000000) ∧
    ofStep (unitE.withFetchWord 32 0xE0000000) (fun t => t.mcount) = some 1 :=
  ⟨⟨by decide, by decide, by decide, by decide, by decide⟩, by decide⟩

theorem witness_EverySystemStepKeepsTheCounters :
    (sysE.withFetchWord 32 0x20000000).trace.mode = .system ∧ SystemInv (sysE.withFetchWord 32 0x20000000) ∧
    PhaseLocked (sysE.withFetchWord 32 0x20000000) ∧
    ofStep (sysE.withFetchWord 32 0x20000000) (fun t => t.tickCount) = some 1 :=
  ⟨by decide, ⟨⟨by decide, by decide, by decide, by decide, by decide⟩, by decide, by decide, fun _ => by decide⟩,
    ⟨rfl, rfl, rfl, rfl, rfl, .inl rfl⟩, by decide⟩

theorem witness_InvariantsHoldAtReset : cfgS.wf = true ∧ cfgE.wf = true := by decide

theorem witness_WellBehavedAdcKeepsSamplesOrdered :
    (WaitInv { sysS with phase := .wait, convPending := true } ∧ ReadyInv { sysS with phase := .wait, convPending := true }) ∧
    wellBehaved (.convDone 42) { sysS with phase := .wait, convPending := true } ∧
    completes (.convDone 42) { sysS with phase := .wait, convPending := true } = true :=
  ⟨by decide, fun _ _ => rfl, by decide⟩

theorem witness_IdleExactlyBetweenSweeps : SystemInv sysE ∧ ReadyInv sysE ∧ sysE.phase = .start :=
  ⟨systemInv_sysE, by decide, rfl⟩

theorem witness_NothingFaultsWithinTheStack : TopInRange unitS ∧ TopInRange (withStack (tens 34) unitE) := by decide

theorem witness_OperationsOnlyAddToTheOutput : completes .drain (withStack [1] unitS) = true := by decide

/-- Two states that differ in `raw_sample`, and one pair with a sample ready. -/
theorem witness_RawSampleIsUnobservableUntilReady :
    (AgreeButRaw sysS { sysS with rawSample := 7 } ∧ sysS ≠ { sysS with rawSample := 7 }) ∧
    AgreeButRaw { sysS with measReady := true } { sysS with measReady := true } :=
  ⟨⟨⟨rfl, fun h => (by cases h)⟩, by decide⟩, ⟨rfl, fun _ => rfl⟩⟩

theorem witness_SimpleNeverDrivesTheMultiplexer :
    unitS.cfg.variant = .simple ∧ completes .advanceSimple unitS = true ∧ Instr.advanceSimple ≠ .reset := by decide

theorem witness_DrainStrobesTheWordsThenEolThenFlush :
    TopInRange (withStack (tens 16) unitS) ∧ completes .drain (withStack (tens 16) unitS) = true := by decide

/-- The values on either side of 10000. -/
theorem witness_TokensAreDecimalDigits : (9999#16).toNat < 10000 ∧ 10000 ≤ (10000#16).toNat := by decide

theorem witness_LinesHaveFiveCharactersPerWord :
    (∀ v ∈ List.replicate 16 (9999#16), v.toNat ≤ 9999) ∧ (List.replicate 16 (9999#16)).length = cap unitS ∧
    (List.replicate 34 (9999#16)).length = cap unitE :=
  ⟨fun v h => by
    rw [List.eq_of_mem_replicate h]
    decide, by decide, by decide⟩

end Sys2Proof.Tests
end

section
/-! The obligations of 00_scope.md: what an ill-formed configuration refuses (R7), and where the stack's accesses are
not defined (R10). -/

namespace Sys2Proof.Machine

/-! The configuration. -/

/-- What an EXTENDED configuration needs to be accepted, for every parameter table: the two equalities of R7 and a
threshold of at least 1. -/
theorem wfWith_iff_of_extended {c : Config} (p : Params) (hv : c.variant = .extended) :
    c.wfWith p = true ↔
      p.nmux * p.hold + (p.nchanExt - p.nmux) * p.refHold = p.cap ∧ p.nmux * p.hold = 2 * p.muxPeriod ∧
        1 ≤ c.tickThreshold := by
  simp [Config.wfWith, Params.agree, hv, and_assoc]

/-! Admission. -/

/-- Every meaning, a controller action's too, is an effect behind the checks of `ifAdmitted`. -/
theorem exec_eq_ifAdmitted (i : Instr) (s : State) : ∃ k, exec i s = ifAdmitted i s k := by
  cases i <;> exact ⟨_, rfl⟩

theorem ifAdmitted_of_not_wf {i : Instr} {s : State} (k : Result) (hw : s.cfg.wf = false) :
    ifAdmitted i s k = .refused .illFormedConfig := by
  simp [ifAdmitted, hw]

theorem exec_of_not_wf (i : Instr) {s : State} (hw : s.cfg.wf = false) : exec i s = .refused .illFormedConfig := by
  obtain ⟨k, hk⟩ := exec_eq_ifAdmitted i s
  rw [hk, ifAdmitted_of_not_wf k hw]

/-! In a UNIT trace PUSH, POP and DRAIN are their micro-operations, in both variants. -/

theorem exec_push_of_unit {s : State} (d : Sample) (hw : s.cfg.wf = true) (hm : s.trace.mode = .unit) :
    exec (.push d) s = finish (push d s) :=
  ifAdmitted_eq _ hw (by rw [hm]; rfl)

theorem exec_pop_of_unit {s : State} (hw : s.cfg.wf = true) (hm : s.trace.mode = .unit) :
    exec .pop s = finish ((pop s).map fun r => emit (.popped r.1) r.2) :=
  ifAdmitted_eq _ hw (by rw [hm]; rfl)

theorem exec_drain_of_unit {s : State} (hw : s.cfg.wf = true) (hm : s.trace.mode = .unit) :
    exec .drain s = finish (drain s) :=
  ifAdmitted_eq _ hw (by rw [hm]; rfl)

/-! The obligations. -/

/-- Settles O17: outside its range the index counts more words than the stack has slots, so none of the three operations
meets its full or empty case, and the first access of each is out of range. -/
theorem stackOperationsFaultOutsideTheStack : Obligations.StackOperationsFaultOutsideTheStack := by
  intro s hw hm ht
  have hd : cap s < depth s := by rwa [topInRange_iff, not_le] at ht
  refine ⟨fun d => ?_, ?_, ?_⟩
  · rw [exec_push_of_unit d hw hm, push_outside d hd]
    rfl
  · rw [exec_pop_of_unit hw hm, pop_outside hd]
    rfl
  · rw [exec_drain_of_unit hw hm, drain_outside hd]
    rfl

/-- Settles O7: each of the three faults contradicts one condition of `wfWith_iff_of_extended`, and `exec` checks the
configuration before anything else. -/
theorem illFormedConfigurationsAreRefused : Obligations.IllFormedConfigurationsAreRefused := by
  refine ⟨fun p c hv hbad => ?_, wf_iff, fun i s => exec_of_not_wf i⟩
  rw [Bool.eq_false_iff, ne_eq, wfWith_iff_of_extended p hv]
  rintro ⟨hcycle, hperiod, hthreshold⟩
  rcases hbad with h | h | h
  · exact h hcycle
  · exact h hperiod
  · omega

end Sys2Proof.Machine
end

section
/-! The obligations of 10_state.md: what every operation leaves unchanged (R23, R32, R34, R224), the invariants of R37
and 41_channel_sequencer.md R144 along every step, and the same invariants after reset (R36). -/

namespace Sys2Proof.Machine

open Sys2Proof.Safety

/-! Frames. -/

/-- TICK writes the tick counter and the sweep flag only. -/
theorem tickBlock_frame (s : State) :
    tickBlock s = { s with tickCount := (tickBlock s).tickCount, sweepFlag := (tickBlock s).sweepFlag } := by
  unfold tickBlock
  split
  · rfl
  · split <;> rfl

theorem tickBlock_of_simple {s : State} (hv : s.cfg.variant = .simple) : tickBlock s = s := by
  simp [tickBlock, hv]

/-- CONSUME writes the stack, the sequencer, the conversion counter, `meas_ready` and the phase only. -/
theorem Effect.consume_frame {s t : State} (he : Effect .consume s t) :
    t = { s with
      phase := .xmit, measReady := false, stack := t.stack, top := t.top, convCount := t.convCount,
      ctr := (advance s).ctr, chan := t.chan, sub := t.sub, mcount := t.mcount, side := t.side,
      muxA := t.muxA, muxB := t.muxB } := by
  have e := advance_frame s
  obtain ⟨-, ⟨-, rfl⟩ | ⟨-, rfl⟩⟩ := he <;> rw [e] <;> rfl

/-- A micro-operation writes the stack, the sequencer and the output trace only. -/
theorem Effect.micro_frame {i : Instr} {s t : State} (he : Effect i s t) (hi : i.opClass = .microOperation) :
    t = { s with
      stack := t.stack, top := t.top, ctr := t.ctr, chan := t.chan, sub := t.sub, mcount := t.mcount,
      side := t.side, muxA := t.muxA, muxB := t.muxB, out := t.out } := by
  cases i with
  | reset | tick | convDone d | startConv | wake | consume | transmit | pass => cases hi
  | push d => obtain ⟨-, rfl⟩ | ⟨-, rfl⟩ := he <;> rfl
  | pop => obtain ⟨-, rfl⟩ | ⟨n, -, -, rfl⟩ := he <;> rfl
  | drain =>
    obtain ⟨-, rfl⟩ := he
    rfl
  | advanceSimple =>
    subst he
    rfl
  | nextChan =>
    subst he
    rw [nextChan_frame]
  | nextMux =>
    subst he
    rw [nextMux_frame]

/-- No operation writes the configuration or the trace, and the records an operation emits go to the end of the output
trace. -/
theorem Effect.output {i : Instr} {s t : State} (he : Effect i s t) :
    t.cfg = s.cfg ∧ t.trace = s.trace ∧ ∃ rs : List Record, t.out = s.out ++ rs := by
  have silent {u : State} (hc : u.cfg = s.cfg) (ht : u.trace = s.trace) (ho : u.out = s.out) :
      u.cfg = s.cfg ∧ u.trace = s.trace ∧ ∃ rs : List Record, u.out = s.out ++ rs :=
    ⟨hc, ht, [], by rw [ho, List.append_nil]⟩
  cases i with
  | reset | convDone d | advanceSimple =>
    subst he
    exact silent rfl rfl rfl
  | tick =>
    subst he
    rw [tickBlock_frame]
    exact silent rfl rfl rfl
  | nextChan =>
    subst he
    rw [nextChan_frame]
    exact silent rfl rfl rfl
  | nextMux =>
    subst he
    rw [nextMux_frame]
    exact silent rfl rfl rfl
  | wake | pass =>
    obtain ⟨-, rfl⟩ := he
    exact silent rfl rfl rfl
  | consume =>
    rw [he.consume_frame]
    exact silent rfl rfl rfl
  | push d =>
    obtain ⟨-, rfl⟩ | ⟨-, rfl⟩ := he <;> exact silent rfl rfl rfl
  | startConv =>
    obtain ⟨-, rfl⟩ := he
    exact ⟨rfl, rfl, _, rfl⟩
  | pop =>
    obtain ⟨-, rfl⟩ | ⟨n, -, -, rfl⟩ := he <;> exact ⟨rfl, rfl, _, rfl⟩
  | transmit =>
    obtain ⟨-, -, rfl⟩ := he
    exact ⟨rfl, rfl, _, List.append_assoc _ _ _⟩
  | drain =>
    obtain ⟨-, rfl⟩ := he
    exact ⟨rfl, rfl, _, List.append_assoc _ _ _⟩

theorem Effect.cap_eq {i : Instr} {s t : State} (he : Effect i s t) : cap t = cap s :=
  cap_congr he.output.1

/-- Only CONV_DONE makes a sample ready (R24). -/
theorem Effect.not_ready {i : Instr} {s t : State} (he : Effect i s t) (hi : ∀ d, i ≠ .convDone d)
    (h : s.measReady = false) : t.measReady = false := by
  cases i with
  | convDone d => exact absurd rfl (hi d)
  | reset =>
    subst he
    rfl
  | consume => rw [he.consume_frame]
  | tick =>
    subst he
    rwa [tickBlock_frame]
  | startConv | wake | pass =>
    obtain ⟨-, rfl⟩ := he
    exact h
  | transmit =>
    obtain ⟨-, -, rfl⟩ := he
    exact h
  | push d | pop | drain | advanceSimple | nextChan | nextMux =>
    rw [he.micro_frame rfl]
    exact h

/-! The stack index. -/

theorem cap_pos (s : State) : 0 < cap s := by
  rcases cap_cases s with ⟨-, h⟩ | ⟨-, h⟩ <;> omega

theorem topInRange_of_empty {s : State} (h : s.top = emptyTop) : TopInRange s := by
  rw [topInRange_iff, depth_eq, h]
  exact Nat.zero_le _

theorem topInRange_congr {s t : State} (hc : cap t = cap s) (ht : t.top = s.top) : TopInRange t ↔ TopInRange s := by
  simp only [TopInRange, hc, ht]

/-- A push that has room keeps the index in range. -/
theorem topInRange_of_succ {s t : State} (hc : cap t = cap s) (ht : t.top = s.top + 1) (hd : depth s < cap s) :
    TopInRange t := by
  have hcap : cap s < 127 := by rcases cap_cases s with ⟨-, h⟩ | ⟨-, h⟩ <;> omega
  have hdepth : depth t = depth s + 1 := by
    rw [← depth_setTop_succ (s := s) (by omega), depth, ht]
    rfl
  rw [topInRange_iff]
  omega

theorem Effect.topInRange {i : Instr} {s t : State} (he : Effect i s t) (h : TopInRange s) : TopInRange t := by
  have hcap := he.cap_eq
  have same (ht : t.top = s.top) : TopInRange t := (topInRange_congr hcap ht).2 h
  cases i with
  | reset =>
    subst he
    exact topInRange_of_empty rfl
  | transmit =>
    obtain ⟨-, -, rfl⟩ := he
    exact topInRange_of_empty rfl
  | drain =>
    obtain ⟨-, rfl⟩ := he
    exact topInRange_of_empty rfl
  | push d =>
    obtain ⟨-, rfl⟩ | ⟨hd, rfl⟩ := he
    · exact h
    · exact topInRange_of_succ hcap rfl hd
  | consume =>
    obtain ⟨-, ⟨-, rfl⟩ | ⟨hd, rfl⟩⟩ := he
    · refine same ?_
      rw [advance_frame]
      rfl
    · exact topInRange_of_succ hcap rfl hd
  | pop =>
    obtain ⟨-, rfl⟩ | ⟨n, hn, hlt, rfl⟩ := he
    · exact h
    · have hdepth : depth (emit (.popped (slot s n)) (s.setTop (s.top - 1))) = n := depth_setTop_pred hn
      rw [topInRange_iff, hdepth, hcap]
      omega
  | convDone d | advanceSimple =>
    subst he
    exact same rfl
  | startConv | wake | pass =>
    obtain ⟨-, rfl⟩ := he
    exact same rfl
  | tick =>
    subst he
    exact same (by rw [tickBlock_frame])
  | nextChan =>
    subst he
    exact same (by rw [nextChan_frame])
  | nextMux =>
    subst he
    exact same (by rw [nextMux_frame])

/-! The sequencer. -/

/-- The sequencer's invariants (R144) on its six fields. -/
structure Sqr.Inv (q : Sqr) : Prop where
  chan : q.chan.toNat ≤ 9
  sub : q.sub.toNat < if q.chan.toNat < 8 then 4 else 1
  group : (q.side = .a ∧ q.muxA = q.mcount) ∨ (q.side = .b ∧ q.muxB = q.mcount)

theorem sequencerInv_iff (s : State) : SequencerInv s ↔ (s.cfg.variant = .extended → (seqOf s).Inv) :=
  forall_congr' fun _ => ⟨fun ⟨hc, hs, hg⟩ => ⟨hc, hs, hg⟩, fun ⟨hc, hs, hg⟩ => ⟨hc, hs, hg⟩⟩

/-- The sequencer after reset (R36). -/
def Sqr.zero : Sqr := ⟨0, 0, 0, .a, 0, 0⟩

theorem Sqr.zero_inv : Sqr.zero.Inv := ⟨by decide, by decide, .inl ⟨rfl, rfl⟩⟩

theorem Sqr.Inv.chanStep {q : Sqr} (h : q.Inv) : q.chanStep.Inv := by
  obtain ⟨hc, hs, hg⟩ := h
  by_cases hlast : q.sub.toNat + 1 = if q.chan.toNat < 8 then 4 else 1
  · rw [Sqr.chanStep, if_pos hlast]
    refine ⟨?_, ?_, hg⟩
    · simp only [BitVec.toNat_ofNat]
      omega
    · split <;> simp
  · rw [Sqr.chanStep, if_neg hlast]
    refine ⟨hc, ?_, hg⟩
    have hle : (q.sub + 1).toNat ≤ q.sub.toNat + 1 := Nat.mod_le _ _
    have hroom : q.sub.toNat + 1 < if q.chan.toNat < 8 then 4 else 1 := by omega
    exact lt_of_le_of_lt hle hroom

theorem Sqr.Inv.muxStep {q : Sqr} (h : q.Inv) : q.muxStep.Inv := by
  obtain ⟨hchan, hsub⟩ := q.muxStep_frame
  refine ⟨hchan ▸ h.chan, by rw [hchan, hsub]; exact h.sub, ?_⟩
  unfold Sqr.muxStep
  split
  · exact h.group
  · split <;> cases hs : q.side <;> simp

theorem Sqr.Inv.adv {q : Sqr} (h : q.Inv) : q.adv.Inv := h.chanStep.muxStep

/-- The sequencer an operation leaves. -/
def seqAfter (i : Instr) (s : State) : Sqr :=
  match i with
  | .reset => Sqr.zero
  | .consume => seqOf (advance s)
  | .nextChan => (seqOf s).chanStep
  | .nextMux => (seqOf s).muxStep
  | _ => seqOf s

theorem Effect.seqOf_eq {i : Instr} {s t : State} (he : Effect i s t) : seqOf t = seqAfter i s := by
  cases i with
  | reset | convDone d | advanceSimple =>
    subst he
    rfl
  | tick =>
    subst he
    rw [tickBlock_frame]
    rfl
  | nextChan =>
    subst he
    exact seqOf_nextChan s
  | nextMux =>
    subst he
    exact seqOf_nextMux s
  | consume => obtain ⟨-, ⟨-, rfl⟩ | ⟨-, rfl⟩⟩ := he <;> rfl
  | startConv | wake | pass | drain =>
    obtain ⟨-, rfl⟩ := he
    rfl
  | transmit =>
    obtain ⟨-, -, rfl⟩ := he
    rfl
  | push d => obtain ⟨-, rfl⟩ | ⟨-, rfl⟩ := he <;> rfl
  | pop => obtain ⟨-, rfl⟩ | ⟨n, -, -, rfl⟩ := he <;> rfl

theorem seqAfter_inv {i : Instr} {s : State} (hv : s.cfg.variant = .extended) (h : (seqOf s).Inv) :
    (seqAfter i s).Inv := by
  cases i with
  | reset => exact Sqr.zero_inv
  | consume =>
    rw [seqAfter, seqOf_advance hv]
    exact h.adv
  | nextChan => exact h.chanStep
  | nextMux => exact h.muxStep
  | tick | convDone d | startConv | wake | transmit | pass | push d | pop | drain | advanceSimple => exact h

theorem Effect.sequencerInv {i : Instr} {s t : State} (he : Effect i s t) (h : SequencerInv s) : SequencerInv t := by
  rw [sequencerInv_iff] at h ⊢
  intro hv
  rw [he.output.1] at hv
  rw [he.seqOf_eq]
  exact seqAfter_inv hv (h hv)

/-- In SIMPLE nothing but RESET writes the six fields of EXTENDED's sequencer (R130). -/
theorem seqAfter_of_simple {i : Instr} {s : State} (hv : s.cfg.variant = .simple)
    (hp : i.presentIn s.cfg.variant = true) (hi : i ≠ .reset) : seqAfter i s = seqOf s := by
  rw [hv] at hp
  cases i with
  | reset => exact absurd rfl hi
  | nextChan | nextMux => cases hp
  | consume =>
    rw [seqAfter, advance_of_simple hv]
    rfl
  | tick | convDone d | startConv | wake | transmit | pass | push d | pop | drain | advanceSimple => rfl

/-! The tick counter. -/

theorem Effect.tickInv {i : Instr} {s t : State} (he : Effect i s t) (h : TickInv s) : TickInv t := by
  cases i with
  | reset =>
    subst he
    exact fun hv => Nat.zero_lt_of_lt (h hv)
  | tick =>
    subst he
    intro hv
    rw [Effect.output (i := .tick) rfl |>.1] at hv
    rw [tickBlock_below hv (h hv)]
    exact Nat.mod_lt _ (Nat.zero_lt_of_lt (h hv))
  | consume =>
    rw [he.consume_frame]
    exact h
  | convDone d =>
    subst he
    exact h
  | startConv | wake | pass =>
    obtain ⟨-, rfl⟩ := he
    exact h
  | transmit =>
    obtain ⟨-, -, rfl⟩ := he
    exact h
  | push d | pop | drain | advanceSimple | nextChan | nextMux =>
    rw [he.micro_frame rfl]
    exact h

/-! The fields a variant does not use. -/

/-- In EXTENDED `ctr` keeps its reset value (R29). -/
theorem Effect.ctr_of_extended {i : Instr} {s t : State} (he : Effect i s t) (hv : s.cfg.variant = .extended)
    (hp : i.presentIn s.cfg.variant = true) (h : s.ctr = 0) : t.ctr = 0 := by
  cases i with
  | reset =>
    subst he
    rfl
  | advanceSimple =>
    rw [hv] at hp
    cases hp
  | consume =>
    rw [he.consume_frame, advance_of_extended hv, nextMux_frame, nextChan_frame]
    exact h
  | tick =>
    subst he
    rwa [tickBlock_frame]
  | nextChan =>
    subst he
    rwa [nextChan_frame]
  | nextMux =>
    subst he
    rwa [nextMux_frame]
  | convDone d =>
    subst he
    exact h
  | startConv | wake | pass | drain =>
    obtain ⟨-, rfl⟩ := he
    exact h
  | transmit =>
    obtain ⟨-, -, rfl⟩ := he
    exact h
  | push d => obtain ⟨-, rfl⟩ | ⟨-, rfl⟩ := he <;> exact h
  | pop => obtain ⟨-, rfl⟩ | ⟨n, -, -, rfl⟩ := he <;> exact h

/-- In SIMPLE the tick counter and the sweep flag keep their reset values (R25, R28). -/
theorem Effect.timer_of_simple {i : Instr} {s t : State} (he : Effect i s t) (hv : s.cfg.variant = .simple)
    (h : s.tickCount = 0 ∧ s.sweepFlag = false) : t.tickCount = 0 ∧ t.sweepFlag = false := by
  cases i with
  | reset =>
    subst he
    exact ⟨rfl, rfl⟩
  | transmit =>
    obtain ⟨-, -, rfl⟩ := he
    exact ⟨h.1, rfl⟩
  | tick =>
    subst he
    rwa [tickBlock_of_simple hv]
  | consume =>
    rw [he.consume_frame]
    exact h
  | convDone d =>
    subst he
    exact h
  | startConv | wake | pass =>
    obtain ⟨-, rfl⟩ := he
    exact h
  | push d | pop | drain | advanceSimple | nextChan | nextMux =>
    rw [he.micro_frame rfl]
    exact h

theorem unusedInv_iff (s : State) :
    UnusedInv s ↔ (s.cfg.variant = .extended → s.ctr = 0) ∧
      (s.cfg.variant = .simple → (s.tickCount = 0 ∧ s.sweepFlag = false) ∧ seqOf s = Sqr.zero) := by
  simp only [UnusedInv, seqOf, Sqr.zero, Sqr.mk.injEq]
  tauto

theorem Effect.unusedInv {i : Instr} {s t : State} (he : Effect i s t) (hp : i.presentIn s.cfg.variant = true)
    (h : UnusedInv s) : UnusedInv t := by
  rw [unusedInv_iff] at h ⊢
  rw [he.output.1, he.seqOf_eq]
  refine ⟨fun hv => he.ctr_of_extended hv hp (h.1 hv), fun hv => ?_⟩
  obtain ⟨htimer, hseq⟩ := h.2 hv
  refine ⟨he.timer_of_simple hv htimer, ?_⟩
  rcases eq_or_ne i .reset with rfl | hi
  · rfl
  · rw [seqAfter_of_simple hv hp hi, hseq]

/-! The conversion in flight. -/

theorem waitInv_of_not_pending {s : State} (hp : s.convPending = false) (hw : s.phase ≠ .wait) : WaitInv s :=
  ⟨fun h => absurd h (by simp [hp]), fun h => absurd h hw⟩

/-- No controller action runs while a conversion is in flight (R167). -/
theorem not_pending_of_ctlNext {s : State} {a : CtlAction} (h : WaitInv s) (ha : ctlNext s = some a) :
    s.convPending = false := by
  rw [Bool.eq_false_iff]
  intro hpending
  rw [ctlNext, h.1 hpending] at ha
  simp [hpending] at ha

/-- A PASS does not lead into WAIT, since it is not taken in it (R198). -/
theorem phaseAfter_ne_wait {s : State} (ha : ctlNext s = some .pass) : phaseAfter s.phase ≠ .wait := by
  cases hphase : s.phase
  case wait =>
    simp only [ctlNext, hphase] at ha
    split at ha <;> cases ha
  all_goals simp [phaseAfter]

theorem Effect.waitInv {i : Instr} {s t : State} (he : Effect i s t) (h : WaitInv s) : WaitInv t := by
  cases i with
  | reset =>
    subst he
    exact waitInv_of_not_pending rfl nofun
  | convDone d =>
    subst he
    exact ⟨nofun, fun _ _ => rfl⟩
  | startConv =>
    obtain ⟨-, rfl⟩ := he
    exact ⟨fun _ => rfl, nofun⟩
  | wake =>
    obtain ⟨ha, rfl⟩ := he
    have hp := not_pending_of_ctlNext h ha
    exact waitInv_of_not_pending hp nofun
  | transmit =>
    obtain ⟨ha, -, rfl⟩ := he
    have hp := not_pending_of_ctlNext h ha
    exact waitInv_of_not_pending hp nofun
  | pass =>
    obtain ⟨ha, rfl⟩ := he
    have hp := not_pending_of_ctlNext h ha
    exact waitInv_of_not_pending hp (phaseAfter_ne_wait ha)
  | consume =>
    have hp := not_pending_of_ctlNext h he.1
    rw [he.consume_frame]
    exact waitInv_of_not_pending hp nofun
  | tick =>
    subst he
    rw [tickBlock_frame]
    exact h
  | push d | pop | drain | advanceSimple | nextChan | nextMux =>
    rw [he.micro_frame rfl]
    exact h

/-! The invariant of the block. -/

/-- Every operation keeps the invariant of the block. -/
theorem exec_blockInv {i : Instr} {s t : State} (h : BlockInv s) (hx : exec i s = .next t) : BlockInv t := by
  obtain ⟨-, -, hp⟩ := exec_admitted hx
  have he := exec_effect hx
  exact ⟨he.topInRange h.top, he.sequencerInv h.sequencer, he.tickInv h.tick, he.unusedInv hp h.unused,
    he.waitInv h.wait⟩

/-- A step that answers a next state runs an operation on the state without the trace's next word. -/
theorem step_next {s t : State} (h : step s = .next t) :
    ∃ (i : Instr) (w : Word) (ws : List Word), s.trace.words = w :: ws ∧
      exec i (s.setTrace { mode := s.trace.mode, words := ws }) = .next t := by
  unfold step takeWord at h
  cases hw : s.trace.words with
  | nil => simp [hw] at h
  | cons w ws =>
    cases hd : decodeIn s.trace.mode s.cfg.variant w with
    | error r => simp [hw, hd] at h
    | ok i => exact ⟨i, w, ws, rfl, by simpa [hw, hd] using h⟩

/-- The trace is no part of the invariant. -/
theorem blockInv_setTrace {s : State} (tr : Trace) (h : BlockInv s) : BlockInv (s.setTrace tr) :=
  ⟨h.top, h.sequencer, h.tick, h.unused, h.wait⟩

/-- Settles O49: a step is one operation on the state without its word, and each part of the invariant is kept by every
operation. -/
theorem everyStepKeepsTheBlockInvariant : Obligations.EveryStepKeepsTheBlockInvariant := by
  intro s t h hstep
  obtain ⟨i, w, ws, -, hx⟩ := step_next hstep
  exact exec_blockInv (blockInv_setTrace _ h) hx

/-- Settles O55: the frame of every operation's effect. -/
theorem operationsOnlyAddToTheOutput : Obligations.OperationsOnlyAddToTheOutput :=
  fun _ _ _ hx => (exec_effect hx).output

/-- Settles O57: in SIMPLE every operation but RESET leaves the whole sequencer of EXTENDED, and so both groups. -/
theorem simpleNeverDrivesTheMultiplexer : Obligations.SimpleNeverDrivesTheMultiplexer := by
  intro i s t hv hx hi
  obtain ⟨-, -, hp⟩ := exec_admitted hx
  have hseq : seqOf t = seqOf s := (exec_effect hx).seqOf_eq.trans (seqAfter_of_simple hv hp hi)
  exact ⟨congrArg Sqr.muxA hseq, congrArg Sqr.muxB hseq⟩

/-! After reset. -/

/-- RESET establishes the invariant of the block, from any state of an accepted configuration. -/
theorem blockInv_resetBlock {s : State} (hw : s.cfg.wf = true) : BlockInv (resetBlock s) where
  top := topInRange_of_empty rfl
  sequencer := (sequencerInv_iff _).2 fun _ => Sqr.zero_inv
  tick := (wf_iff s.cfg).1 hw
  unused := (unusedInv_iff _).2 ⟨fun _ => rfl, fun _ => ⟨⟨rfl, rfl⟩, rfl⟩⟩
  wait := waitInv_of_not_pending rfl nofun

theorem systemInv_resetBlock {s : State} (hw : s.cfg.wf = true) : SystemInv (resetBlock s) where
  block := blockInv_resetBlock hw
  count := rfl
  bound := Nat.zero_le _
  room _ := cap_pos (resetBlock s)

theorem readyInv_resetBlock (s : State) : ReadyInv (resetBlock s) := nofun

/-- A sweep's first row is the sequencer after reset. -/
theorem rowSqr_zero : rowSqr 0 0 = Sqr.zero := by decide

theorem phaseLocked_resetBlock (s : State) : PhaseLocked (resetBlock s) := by
  cases hv : (resetBlock s).cfg.variant
  · exact (phaseLocked_simple hv).2 rfl
  · exact (phaseLocked_extended hv).2 ⟨0, .inl rfl, rowSqr_zero.symm⟩

/-- The state after power-on is one that RESET leaves. -/
theorem resetBlock_powerOn (c : Config) (tr : Trace) : resetBlock (State.powerOn c tr) = State.powerOn c tr := rfl

theorem built_wf : Config.built.wf = true := rfl

/-- Settles O51: power-on is a fixed point of RESET, which establishes the invariants. -/
theorem invariantsHoldAtReset : Obligations.InvariantsHoldAtReset := by
  have powerOn (c : Config) (tr : Trace) (hw : c.wf = true) :
      SystemInv (State.powerOn c tr) ∧ ReadyInv (State.powerOn c tr) ∧ PhaseLocked (State.powerOn c tr) := by
    rw [← resetBlock_powerOn]
    exact ⟨systemInv_resetBlock hw, readyInv_resetBlock _, phaseLocked_resetBlock _⟩
  exact ⟨powerOn, powerOn Config.built _ built_wf⟩

/-! `raw_sample` while no sample is ready: every operation but CONV_DONE commutes with writing it. -/

/-- The answer with `x` for the next state's `raw_sample`. -/
def withRaw (x : Sample) (r : Result) : Result := andThen r fun u => .next (u.setRawSample x)

theorem ifAdmitted_setRawSample (x : Sample) (i : Instr) (s : State) (k : Result) :
    ifAdmitted i (s.setRawSample x) (withRaw x k) = withRaw x (ifAdmitted i s k) := by
  simp only [ifAdmitted, State.setRawSample_fields]
  split
  · rfl
  · split <;> rfl

theorem ifNext_setRawSample (x : Sample) (a : CtlAction) (s : State) (k : Result) :
    ifNext a (s.setRawSample x) (withRaw x k) = withRaw x (ifNext a s k) := by
  rw [ifNext, ifNext, ← ifAdmitted_setRawSample, show ctlNext (s.setRawSample x) = ctlNext s from rfl]
  split <;> rfl

theorem finish_map (x : Sample) (e : Except Fault State) :
    finish (e.map (State.setRawSample · x)) = withRaw x (finish e) := by
  cases e <;> rfl

theorem tickBlock_setRawSample (x : Sample) (s : State) :
    tickBlock (s.setRawSample x) = (tickBlock s).setRawSample x := by
  simp only [tickBlock, State.setRawSample_fields]
  split
  · rfl
  · split <;> rfl

theorem nextChan_setRawSample (x : Sample) (s : State) :
    nextChan (s.setRawSample x) = (nextChan s).setRawSample x := by
  have hh : holdOf (s.setRawSample x) = holdOf s := rfl
  simp only [nextChan, hh, State.setRawSample_fields]
  split <;> rfl

theorem nextMux_setRawSample (x : Sample) (s : State) :
    nextMux (s.setRawSample x) = (nextMux s).setRawSample x := by
  by_cases h : 8 ≤ s.chan.toNat
  · rw [nextMux_reference h, nextMux_reference (s := s.setRawSample x) h]
  · rw [not_le] at h
    by_cases hm : s.mcount = 15
    · rw [nextMux_wrap h hm, nextMux_wrap (s := s.setRawSample x) h hm]
      simp only [State.setRawSample_fields]
      split <;> rfl
    · rw [nextMux_count h hm, nextMux_count (s := s.setRawSample x) h hm]
      simp only [State.setRawSample_fields]
      split <;> rfl

theorem push_setRawSample (x d : Sample) (s : State) :
    push d (s.setRawSample x) = (push d s).map (State.setRawSample · x) := by
  rcases Nat.lt_trichotomy (depth s) (cap s) with hd | hd | hd
  · rw [push_room d hd, push_room (s := s.setRawSample x) d hd]
    rfl
  · rw [push_full d hd, push_full (s := s.setRawSample x) d hd]
    rfl
  · rw [push_outside d hd, push_outside (s := s.setRawSample x) d hd]
    rfl

theorem pop_setRawSample (x : Sample) (s : State) :
    pop (s.setRawSample x) = (pop s).map fun r => (r.1, r.2.setRawSample x) := by
  unfold pop
  split
  · next he =>
    rw [if_pos (show isEmpty s = true from he)]
    rfl
  · next he =>
    rw [if_neg (show ¬isEmpty s = true from he)]
    change (stackRead s.top s).map _ = _
    cases stackRead s.top s <;> rfl

theorem drain_setRawSample (x : Sample) (s : State) :
    drain (s.setRawSample x) = (drain s).map (State.setRawSample · x) := by
  by_cases hd : depth s ≤ cap s
  · rw [drain_held hd, drain_held (s := s.setRawSample x) hd]
    rfl
  · rw [not_le] at hd
    rw [drain_outside hd, drain_outside (s := s.setRawSample x) hd]
    rfl

theorem ctlNext_ne_consume {s : State} (h : s.measReady = false) : ctlNext s ≠ some .consume := by
  unfold ctlNext
  split
  · split
    · nofun
    · split <;> nofun
  · split <;> nofun
  · simp [consumeGuard, h]
  · split <;> nofun

/-- CONSUME is not enabled while no sample is ready (R193). -/
theorem exec_consume_of_not_ready {s : State} (h : s.measReady = false) :
    exec .consume s = ifAdmitted .consume s (.refused .notEnabled) := by
  change ifAdmitted _ s (if ctlNext s = some .consume then _ else _) = _
  rw [if_neg (ctlNext_ne_consume h)]
  rfl

/-- With no sample ready, only CONV_DONE reads or writes `raw_sample`. -/
theorem exec_setRawSample {i : Instr} {s : State} (x : Sample) (hi : ∀ d, i ≠ .convDone d)
    (h : s.measReady = false) : exec i (s.setRawSample x) = withRaw x (exec i s) := by
  cases i with
  | convDone d => exact absurd rfl (hi d)
  | reset => exact ifAdmitted_setRawSample x .reset s (.next (resetBlock s))
  | advanceSimple => exact ifAdmitted_setRawSample x _ s (.next (advanceSimple s))
  | startConv => exact ifNext_setRawSample x _ s (.next (startConv s))
  | wake => exact ifNext_setRawSample x _ s (.next (wake s))
  | pass => exact ifNext_setRawSample x _ s (.next (passPhase s))
  | consume =>
    rw [exec_consume_of_not_ready h, exec_consume_of_not_ready (s := s.setRawSample x) h]
    exact ifAdmitted_setRawSample x _ s (.refused .notEnabled)
  | tick =>
    rw [exec, execTick, tickBlock_setRawSample]
    exact ifAdmitted_setRawSample x _ s (.next (tickBlock s))
  | nextChan =>
    rw [exec, execNextChan, nextChan_setRawSample]
    exact ifAdmitted_setRawSample x _ s (.next (nextChan s))
  | nextMux =>
    rw [exec, execNextMux, nextMux_setRawSample]
    exact ifAdmitted_setRawSample x _ s (.next (nextMux s))
  | push d =>
    rw [exec, execPush, push_setRawSample, finish_map]
    exact ifAdmitted_setRawSample x _ s _
  | pop =>
    have hpop : ((pop (s.setRawSample x)).map fun r => emit (.popped r.1) r.2) =
        ((pop s).map fun r => emit (.popped r.1) r.2).map (State.setRawSample · x) := by
      rw [pop_setRawSample]
      cases pop s <;> rfl
    rw [exec, execPop, hpop, finish_map]
    exact ifAdmitted_setRawSample x _ s _
  | drain =>
    rw [exec, execDrain, drain_setRawSample, finish_map]
    exact ifAdmitted_setRawSample x _ s _
  | transmit =>
    have htransmit : transmit (s.setRawSample x) = (transmit s).map (State.setRawSample · x) := by
      rw [transmit, transmit, drain_setRawSample]
      cases drain s <;> rfl
    rw [exec, execTransmit, htransmit, finish_map]
    exact ifNext_setRawSample x _ s _

/-! Answers alike. -/

theorem agreeButRaw_refl (s : State) : AgreeButRaw s s := ⟨rfl, fun _ => rfl⟩

theorem alike_refl (r : Result) : Alike AgreeButRaw r r := by
  cases r with
  | next s => exact agreeButRaw_refl s
  | fault f => rfl
  | refused e => rfl

theorem alike_withRaw (x : Sample) {r : Result} (h : ∀ u, r = .next u → u.measReady = false) :
    Alike AgreeButRaw (withRaw x r) r := by
  cases r with
  | next u => exact ⟨rfl, fun hr => absurd hr (by simp [h u rfl])⟩
  | fault f => rfl
  | refused e => rfl

/-- Settles O56: with a sample ready the two states are equal; without one CONV_DONE overwrites the field, and every
other operation commutes with writing it. -/
theorem rawSampleIsUnobservableUntilReady : Obligations.RawSampleIsUnobservableUntilReady := by
  intro i s t ⟨hfields, hraw⟩
  generalize s.rawSample = x at hfields hraw
  subst hfields
  cases hready : t.measReady with
  | true =>
    have hs : t.setRawSample x = t := by
      rw [hraw hready]
      rfl
    rw [hs]
    exact alike_refl _
  | false =>
    by_cases hi : ∃ d, i = .convDone d
    · obtain ⟨d, rfl⟩ := hi
      have hsame : exec (.convDone d) (t.setRawSample x) = exec (.convDone d) t := rfl
      rw [hsame]
      exact alike_refl _
    · rw [not_exists] at hi
      rw [exec_setRawSample x hi hready]
      exact alike_withRaw x fun u hu => (exec_effect hu).not_ready hi hready

end Sys2Proof.Machine
end

section
/-! The obligations of 20_memory.md: which slot of the stack an operation stores to (R50), and which operations set and
clear each latch (R60). -/

namespace Sys2Proof.Machine

open Sys2Proof.Safety

/-! The stack's slots. -/

theorem stackRead_congr {s t : State} {a : BitVec 7} (hc : cap t = cap s) (hs : slot t a.toNat = slot s a.toNat) :
    stackRead a t = stackRead a s := by
  by_cases h : a.toNat < cap s
  · rw [stackRead_eq h, stackRead_eq (hc.symm ▸ h), hs]
  · simp only [stackRead, hc, h, if_false]

theorem slot_of_setIfInBounds_ne {s t : State} {k n : Nat} {d : Sample} (ht : t.stack = s.stack.setIfInBounds k d)
    (hne : k ≠ n) : slot t n = slot s n := by
  rw [slot, slot, ht, Vector.getElem?_setIfInBounds_ne hne]

/-- With room on the stack PUSH and CONSUME store just above `top` (R102, 43 R196). -/
theorem storesTo_of_room {i : Instr} {s : State} (hi : (∃ d, i = .push d) ∨ i = .consume) (h : depth s < cap s) :
    storesTo i s = some (s.top + 1) := by
  have hf : ¬isFull s := fun hfull => h.ne ((stackFull_iff s).1 hfull)
  obtain ⟨d, rfl⟩ | rfl := hi <;> exact if_neg hf

/-- All that an operation can do to the stack's words: one store, at `storesTo`. -/
theorem Effect.stack {i : Instr} {s t : State} (he : Effect i s t) :
    t.stack = s.stack ∨ ∃ a d, storesTo i s = some a ∧ t.stack = s.stack.setIfInBounds a.toNat d := by
  cases i with
  | push d =>
    obtain ⟨-, rfl⟩ | ⟨hroom, rfl⟩ := he
    · exact .inl rfl
    · exact .inr ⟨_, d, storesTo_of_room (.inl ⟨d, rfl⟩) hroom, rfl⟩
  | consume =>
    obtain ⟨-, ⟨-, rfl⟩ | ⟨hroom, rfl⟩⟩ := he
    · left
      rw [advance_frame]
      rfl
    · exact .inr ⟨_, s.rawSample, storesTo_of_room (.inr rfl) hroom, rfl⟩
  | reset | convDone d | advanceSimple =>
    subst he
    exact .inl rfl
  | tick =>
    subst he
    rw [tickBlock_frame]
    exact .inl rfl
  | nextChan =>
    subst he
    rw [nextChan_frame]
    exact .inl rfl
  | nextMux =>
    subst he
    rw [nextMux_frame]
    exact .inl rfl
  | startConv | wake | pass | drain =>
    obtain ⟨-, rfl⟩ := he
    exact .inl rfl
  | transmit =>
    obtain ⟨-, -, rfl⟩ := he
    exact .inl rfl
  | pop => obtain ⟨-, rfl⟩ | ⟨n, -, -, rfl⟩ := he <;> exact .inl rfl

/-- Settles O18: an operation stores once at most, and a store leaves every slot but its own. -/
theorem operationsKeepOtherSlots : Obligations.OperationsKeepOtherSlots := by
  intro i s t a hx ha
  have he := exec_effect hx
  refine stackRead_congr he.cap_eq ?_
  obtain hkept | ⟨b, d, hb, hstore⟩ := he.stack
  · rw [slot, slot, hkept]
  · have hne : b ≠ a := fun hba => ha (hba ▸ hb)
    exact slot_of_setIfInBounds_ne hstore (BitVec.toNat_ne.1 hne)

/-! The latches. -/

/-- How a latch goes from `b` to `b'`: it is kept, or a setting event sets it, or a clearing action clears it (R60). -/
def Latched (setting clearing : Prop) (b b' : Bool) : Prop :=
  b' = b ∨ (setting ∧ b' = true) ∨ (clearing ∧ b' = false)

section
variable {setting clearing : Prop} {b b' : Bool}

theorem Latched.setting_of_rise (h : Latched setting clearing b b') (hb : b = false) (hb' : b' = true) : setting := by
  subst hb hb'
  obtain hkept | ⟨hset, -⟩ | ⟨-, hclear⟩ := h
  · cases hkept
  · exact hset
  · cases hclear

theorem Latched.clearing_of_fall (h : Latched setting clearing b b') (hb : b = true) (hb' : b' = false) : clearing := by
  subst hb hb'
  obtain hkept | ⟨-, hset⟩ | ⟨hclear, -⟩ := h
  · cases hkept
  · cases hset
  · exact hclear

end

/-- TICK sets the sweep flag in EXTENDED or keeps it (42 R162, R163). -/
theorem tickBlock_sweepFlag (s : State) :
    (tickBlock s).sweepFlag = s.sweepFlag ∨ (s.cfg.variant = .extended ∧ (tickBlock s).sweepFlag = true) := by
  cases hv : s.cfg.variant with
  | simple =>
    rw [tickBlock_of_simple hv]
    exact .inl rfl
  | extended =>
    simp only [tickBlock, hv]
    split
    · exact .inr ⟨trivial, rfl⟩
    · exact .inl rfl

/-- The table of R60, with RESET among the clearing actions of both latches. -/
theorem Effect.latches {i : Instr} {s t : State} (he : Effect i s t) :
    Latched (∃ d, i = .convDone d) (i = .consume ∨ i = .reset) s.measReady t.measReady ∧
      Latched (i = .tick ∧ s.cfg.variant = .extended) (i = .transmit ∨ i = .reset) s.sweepFlag t.sweepFlag := by
  cases i with
  | reset =>
    subst he
    exact ⟨.inr (.inr ⟨.inr rfl, rfl⟩), .inr (.inr ⟨.inr rfl, rfl⟩)⟩
  | convDone d =>
    subst he
    exact ⟨.inr (.inl ⟨⟨d, rfl⟩, rfl⟩), .inl rfl⟩
  | consume =>
    rw [he.consume_frame]
    exact ⟨.inr (.inr ⟨.inl rfl, rfl⟩), .inl rfl⟩
  | tick =>
    subst he
    have hready : (tickBlock s).measReady = s.measReady := by rw [tickBlock_frame]
    obtain hkept | ⟨hv, hset⟩ := tickBlock_sweepFlag s
    · exact ⟨.inl hready, .inl hkept⟩
    · exact ⟨.inl hready, .inr (.inl ⟨⟨rfl, hv⟩, hset⟩)⟩
  | transmit =>
    obtain ⟨-, -, rfl⟩ := he
    exact ⟨.inl rfl, .inr (.inr ⟨.inl rfl, rfl⟩)⟩
  | startConv | wake | pass =>
    obtain ⟨-, rfl⟩ := he
    exact ⟨.inl rfl, .inl rfl⟩
  | push d | pop | drain | advanceSimple | nextChan | nextMux =>
    rw [he.micro_frame rfl]
    exact ⟨.inl rfl, .inl rfl⟩

/-- Settles O45: a latch that rises or falls was not kept, so the table of R60 names the operation. -/
theorem latchesHaveOneSetterAndOneClearer : Obligations.LatchesHaveOneSetterAndOneClearer := by
  intro i s t hx
  obtain ⟨hready, hflag⟩ := (exec_effect hx).latches
  exact ⟨hready.setting_of_rise, hready.clearing_of_fall, hflag.setting_of_rise, hflag.clearing_of_fall⟩

end Sys2Proof.Machine
end

section
/-! The obligations of 30_encoding.md: decoding and encoding are inverse (R70 to R72), the order of the checks (R74) and
what a step makes of a word (R76 to R79), at most one controller action (R75), and the run of SAMPLE (R82). -/

namespace Sys2Proof.Machine

open Sys2Proof.Safety

/-! The OP code and the operand of an operation. -/

theorem operation_eq_none_iff (op : BitVec 4) (d : Sample) :
    operation op d = none ↔ op.toNat = 0 ∨ op.toNat = 15 := by
  have hlt : op.toNat < 16 := op.isLt
  unfold operation
  split <;> simp only [reduceCtorEq, true_iff, false_iff, imp_false] at * <;> omega

theorem operation_opcode_data (i : Instr) : operation i.opcode i.data = some i := by
  cases i <;> rfl

/-- What `operation` selects has the code and, where it takes one, the operand. -/
theorem opcode_operand_of_operation {op : BitVec 4} {d : Sample} {i : Instr} (h : operation op d = some i) :
    i.opcode = op ∧ (i.hasOperand = true → i.data = d) := by
  unfold operation at h
  split at h <;> cases h
  all_goals exact ⟨BitVec.eq_of_toNat_eq (Eq.symm ‹op.toNat = _›), by simp [Instr.hasOperand, Instr.data]⟩

theorem data_of_not_hasOperand {i : Instr} (h : i.hasOperand = false) : i.data = 0 := by
  cases i with
  | convDone d | push d => cases h
  | _ => rfl

/-- Past the check of R74 on DATA, DATA is the operand, or zero as R72 asks where there is none. -/
theorem data_of_operation {op : BitVec 4} {d : Sample} {i : Instr} (h : operation op d = some i)
    (hzero : ¬(i.hasOperand = false ∧ d ≠ 0)) : i.data = d := by
  cases ho : i.hasOperand with
  | true => exact (opcode_operand_of_operation h).2 ho
  | false => rw [data_of_not_hasOperand ho, not_not.1 fun hd => hzero ⟨ho, hd⟩]

/-! The columns of R71 in OP codes. -/

theorem hasOperand_iff_opcode (i : Instr) : i.hasOperand = true ↔ i.opcode.toNat = 3 ∨ i.opcode.toNat = 9 := by
  cases i <;> simp [Instr.hasOperand, Instr.opcode]

/-- R76 in OP codes: codes 1 and 2 in both modes, 3 to 8 in SYSTEM, from 9 on in UNIT. -/
theorem admittedIn_iff_opcode (m : Mode) (i : Instr) :
    i.admittedIn m = true ↔
      i.opcode.toNat = 1 ∨ i.opcode.toNat = 2 ∨ (m = .system ∧ 3 ≤ i.opcode.toNat ∧ i.opcode.toNat ≤ 8) ∨
        (m = .unit ∧ 9 ≤ i.opcode.toNat) := by
  cases m <;> cases i <;> simp [Instr.admittedIn, Instr.opClass, Instr.opcode]

/-- R77 in OP codes. -/
theorem presentIn_iff_opcode (v : Variant) (i : Instr) :
    i.presentIn v = true ↔
      (i.opcode.toNat = 12 → v = .simple) ∧ (i.opcode.toNat = 13 ∨ i.opcode.toNat = 14 → v = .extended) := by
  cases i <;> simp [Instr.presentIn, Instr.opcode]

/-! The decoder. -/

theorem decode_of_reserved {w : Word} (h : (opField w).toNat = 0 ∨ (opField w).toNat = 15) :
    decode w = .error .reservedOp := by
  simp only [decode, (operation_eq_none_iff _ (dataField w)).2 h]

/-- All the checks of R74 on a word whose code is not reserved, in their order. -/
theorem decodeIn_of_operation {w : Word} {i : Instr} (m : Mode) (v : Variant)
    (h : operation (opField w) (dataField w) = some i) :
    decodeIn m v w =
      if rsvField w ≠ 0 then .error .reservedBits
      else if i.hasOperand = false ∧ dataField w ≠ 0 then .error .nonzeroData
      else if i.admittedIn m = false then .error .wrongMode
      else if i.presentIn v = false then .error .wrongVariant
      else .ok i := by
  by_cases hrsv : rsvField w ≠ 0
  · simp only [decodeIn, decode, h, if_pos hrsv]
  by_cases hdata : i.hasOperand = false ∧ dataField w ≠ 0
  · simp only [decodeIn, decode, h, if_neg hrsv, if_pos hdata]
  simp only [decodeIn, decode, h, if_neg hrsv, if_neg hdata, admission]
  cases i.admittedIn m <;> cases i.presentIn v <;> rfl

/-- A word decodes to an operation exactly when its three fields are the operation's code, zero and the operation's
operand (R70, R72). -/
theorem decode_eq_ok_iff (w : Word) (i : Instr) :
    decode w = .ok i ↔ opField w = i.opcode ∧ rsvField w = 0 ∧ dataField w = i.data := by
  constructor
  · intro h
    unfold decode at h
    split at h
    · cases h
    · next j hj =>
      split_ifs at h with hrsv hdata
      cases h
      exact ⟨(opcode_operand_of_operation hj).1.symm, not_not.1 hrsv, (data_of_operation hj hdata).symm⟩
  · rintro ⟨hop, hrsv, hdata⟩
    have hzero : ¬(i.hasOperand = false ∧ i.data ≠ 0) := fun ⟨ho, hd⟩ => hd (data_of_not_hasOperand ho)
    simp only [decode, hop, hdata, operation_opcode_data, hrsv, ne_eq, not_true, if_false]
    exact if_neg hzero

/-- The three fields, one after the other, are the word (R70). -/
theorem append_fields (w : Word) : opField w ++ (rsvField w ++ dataField w) = w := by
  rw [rsvField, dataField, BitVec.extractLsb'_append_extractLsb'_eq_extractLsb' (by rfl), opField,
    BitVec.extractLsb'_append_extractLsb'_eq_extractLsb' (by rfl), BitVec.extractLsb'_eq_self]

/-- Settles O1: the fields of the encoded word are those `decode_eq_ok_iff` asks for. -/
theorem encodedOperationsDecode : Obligations.EncodedOperationsDecode :=
  fun i => (decode_eq_ok_iff _ i).2 (Laws.EncodingFields.fields_of_parts i.opcode i.data)

/-- Settles O2: the three fields of the word are fixed by what it decodes to, and a word is its fields. -/
theorem decodedWordsAreCanonical : Obligations.DecodedWordsAreCanonical := by
  intro w i h
  obtain ⟨hop, hrsv, hdata⟩ := (decode_eq_ok_iff w i).1 h
  rw [encode, ← hop, ← hrsv, ← hdata, append_fields]

/-- Settles O4: each word's code is its operation's, its RSV zero and its DATA the operand. -/
theorem tableWordsDecode : Obligations.TableWordsDecode := by
  simp only [Obligations.TableWordsDecode, decode_eq_ok_iff]
  decide

/-- Settles O3: a code that is not reserved selects an operation, and the conditions in OP codes are that operation's
columns. -/
theorem decodeChecksInOrder : Obligations.DecodeChecksInOrder := by
  intro w m v op rsv d inMode inVariant
  by_cases hres : op = 0 ∨ op = 15
  · rw [if_pos hres, decodeIn, decode_of_reserved hres]
  rw [if_neg hres]
  obtain ⟨i, hi⟩ : ∃ i, operation (opField w) (dataField w) = some i :=
    Option.ne_none_iff_exists'.1 (mt (operation_eq_none_iff _ _).1 hres)
  have hop : i.opcode.toNat = op := congrArg BitVec.toNat (opcode_operand_of_operation hi).1
  have hoperand : ¬(op = 3 ∨ op = 9) ↔ i.hasOperand = false := by
    rw [← hop, ← hasOperand_iff_opcode, Bool.not_eq_true]
  have hmode : ¬inMode ↔ i.admittedIn m = false := by
    rw [← Bool.not_eq_true, admittedIn_iff_opcode, hop]
  have hvariant : ¬inVariant ↔ i.presentIn v = false := by
    rw [← Bool.not_eq_true, presentIn_iff_opcode, hop]
  have hdecode := decodeIn_of_operation m v hi
  simp only [hoperand, hmode, hvariant]
  split_ifs with hrsv hzero hm hv
  · exact hdecode.trans (if_pos hrsv)
  · exact hdecode.trans ((if_neg hrsv).trans (if_pos hzero))
  · exact hdecode.trans ((if_neg hrsv).trans ((if_neg hzero).trans (if_pos hm)))
  · exact hdecode.trans ((if_neg hrsv).trans ((if_neg hzero).trans ((if_neg hm).trans (if_pos hv))))
  · exact ⟨i, hdecode.trans ((if_neg hrsv).trans ((if_neg hzero).trans ((if_neg hm).trans (if_neg hv)))), hop,
      data_of_operation hi hzero⟩

/-! A step. -/

/-- Settles O5: `step` takes the word off and dispatches on what the decoder answers. -/
theorem stepRunsTheDecodedWord : Obligations.StepRunsTheDecodedWord := by
  intro s
  refine ⟨fun hend => ?_, fun w rest hw => ⟨fun r hr => ?_, fun i hi => ?_⟩⟩
  · simp only [step, takeWord, hend]
  · simp only [step, takeWord, hw, hr]
  · simp only [step, takeWord, hw, hi]
    rfl

/-! Refusals by mode and variant. -/

theorem not_admittedIn_system {i : Instr} (hi : i.opClass = .microOperation) : i.admittedIn .system = false := by
  cases i with
  | push d | pop | drain | advanceSimple | nextChan | nextMux => rfl
  | _ => cases hi

theorem not_admittedIn_unit {i : Instr} (hi : i.opClass = .controllerAction) : i.admittedIn .unit = false := by
  cases i with
  | startConv | wake | consume | transmit | pass => rfl
  | _ => cases hi

/-- What the last two checks of R74 refuse, `exec` refuses too (log 14). -/
theorem exec_of_admission {i : Instr} {s : State} {r : DecodeRefusal} (hw : s.cfg.wf = true)
    (ha : admission s.trace.mode s.cfg.variant i = some r) : exec i s = .refused (.word r) := by
  obtain ⟨k, hk⟩ := exec_eq_ifAdmitted i s
  simp [hk, ifAdmitted, hw, ha]

theorem exec_of_not_admittedIn {i : Instr} {s : State} (hw : s.cfg.wf = true)
    (hm : i.admittedIn s.trace.mode = false) : exec i s = .refused (.word .wrongMode) :=
  exec_of_admission hw (if_pos hm)

/-- Settles O6: each operation named is not in the mode's column of R71, or in it and not in the variant's. -/
theorem operationsStayInModeAndVariant : Obligations.OperationsStayInModeAndVariant := by
  intro i s hw
  refine ⟨fun hm hi => ?_, fun hm hi => ?_, ?_, ?_, ?_⟩
  · exact exec_of_not_admittedIn hw (hm ▸ not_admittedIn_system hi)
  · exact exec_of_not_admittedIn hw (hm ▸ not_admittedIn_unit hi)
  · rintro hm ⟨d, rfl⟩
    exact exec_of_not_admittedIn hw (by rw [hm]; rfl)
  · rintro hm hv rfl
    exact exec_of_admission hw (by rw [hm, hv]; rfl)
  · rintro hm hv (rfl | rfl) <;> exact exec_of_admission hw (by rw [hm, hv]; rfl)

/-! The controller's actions. -/

/-- A controller action is an effect behind the checks of `ifNext`. -/
theorem exec_eq_ifNext (a : CtlAction) (s : State) : ∃ k, exec a.instr s = ifNext a s k := by
  cases a <;> exact ⟨_, rfl⟩

theorem ctlNext_of_exec {a : CtlAction} {s t : State} (h : exec a.instr s = .next t) : ctlNext s = some a := by
  obtain ⟨k, hk⟩ := exec_eq_ifNext a s
  exact (ifNext_ok (hk ▸ h)).1

/-- Settles O42: an action that runs is `ctl_next`, which is one. -/
theorem atMostOneControllerActionRuns : Obligations.AtMostOneControllerActionRuns :=
  fun _ _ _ _ _ ha hb => Option.some.inj ((ctlNext_of_exec ha).symm.trans (ctlNext_of_exec hb))

/-! SAMPLE. -/

theorem startGuard_iff (s : State) :
    startGuard s = true ↔
      s.measReady = false ∧ s.convPending = false ∧ isFull s = false ∧
        (s.cfg.variant = .simple ∨ s.sweepFlag = true) := by
  simp [startGuard, and_assoc]

/-- A full stack disables the start (R192), so in the index's range there is room. -/
theorem depth_lt_cap_of_startGuard {s : State} (hg : startGuard s = true) (ht : TopInRange s) : depth s < cap s := by
  obtain ⟨-, -, hfull, -⟩ := (startGuard_iff s).1 hg
  have hne : depth s ≠ cap s := fun h => by simp [(stackFull_iff s).2 h] at hfull
  exact lt_of_le_of_ne ((topInRange_iff s).1 ht) hne

/-- CONSUME with room on the stack. -/
theorem consume_of_room {s : State} (h : depth s < cap s) :
    consume s =
      .ok (countSample
        { advance s with top := s.top + 1, stack := s.stack.setIfInBounds (depth s) s.rawSample }) := by
  have raw : (advance s).rawSample = s.rawSample := by rw [advance_frame s]
  rw [consume, raw, push_advance_room _ h]
  rfl

/-- The held words after a store just above them. -/
theorem held_of_store {s t : State} {d : Sample} (htop : t.top = s.top + 1)
    (hstack : t.stack = s.stack.setIfInBounds (depth s) d) (h : depth s < cap s) : held t = held s ++ [d] := by
  have hcap : cap s ≤ maxSlots := by rcases cap_cases s with ⟨-, hc⟩ | ⟨-, hc⟩ <;> simp [hc, maxSlots]
  have hdepth : depth t = depth s + 1 := by
    rw [← depth_setTop_succ (h.trans_le (hcap.trans (by decide))), depth, depth, htop]
    rfl
  have hnew : slot t (depth s) = d := by
    rw [slot, hstack, Vector.getElem?_setIfInBounds_self_of_lt (h.trans_le hcap)]
    rfl
  have hold : (List.range (depth s)).map (slot t) = held s :=
    List.map_congr_left fun n hn => slot_of_setIfInBounds_ne hstack (List.mem_range.1 hn).ne'
  rw [held, hdepth, List.range_succ, List.map_append, hold, List.map_singleton, hnew]

theorem advance_ctr_of_extended {s : State} (hv : s.cfg.variant = .extended) : (advance s).ctr = s.ctr := by
  rw [advance_of_extended hv, nextMux_frame, nextChan_frame]

/-- `advance` reads the configuration and the two sequencers only. -/
theorem advance_congr {s t : State} (hcfg : t.cfg = s.cfg) (hctr : t.ctr = s.ctr) (hseq : seqOf t = seqOf s) :
    (advance t).ctr = (advance s).ctr ∧ seqOf (advance t) = seqOf (advance s) := by
  cases hv : s.cfg.variant with
  | simple =>
    rw [advance_of_simple hv, advance_of_simple (hcfg ▸ hv)]
    exact ⟨congrArg (· + 1) hctr, hseq⟩
  | extended =>
    have hv' : t.cfg.variant = .extended := hcfg ▸ hv
    rw [advance_ctr_of_extended hv, advance_ctr_of_extended hv', seqOf_advance hv, seqOf_advance hv', hseq]
    exact ⟨hctr, rfl⟩

theorem execAll_cons_of_next {i : Instr} {is : List Instr} {s t : State} (h : exec i s = .next t) :
    execAll (i :: is) s = execAll is t := by
  rw [execAll, h]
  rfl

/-- The state in which SAMPLE `d` meets its CONSUME: after START_CONV, CONV_DONE `d` and WAKE. -/
def converted (d : Sample) (s : State) : State := wake (convDone d (startConv s))

/-- The state SAMPLE `d` leaves: the sequencer advanced, `d` on the stack, one conversion counted. -/
def sampled (d : Sample) (s : State) : State :=
  countSample
    { advance (converted d s) with top := s.top + 1, stack := s.stack.setIfInBounds (depth s) d }

/-- SAMPLE from START with room on the stack: each of its operations is enabled after the one before (R82, R195). -/
theorem execAll_sampleMacro {s : State} (d : Sample) (hw : s.cfg.wf = true) (hm : s.trace.mode = .system)
    (hphase : s.phase = .start) (hg : startGuard s = true) (hroom : depth s < cap s) :
    execAll (sampleMacro d) s = .next (sampled d s) := by
  have hstart : ctlNext s = some .startConv := by simp [ctlNext, hphase, hg]
  have hexecStart : exec .startConv s = .next (startConv s) := (ifNext_eq _ hw hm).trans (if_pos hstart)
  have hexecDone : exec (.convDone d) (startConv s) = .next (convDone d (startConv s)) :=
    ifAdmitted_eq (s := startConv s) _ hw (by rw [show (startConv s).trace.mode = .system from hm]; rfl)
  have hexecWake : exec .wake (convDone d (startConv s)) = .next (converted d s) :=
    (ifNext_eq (s := convDone d (startConv s)) _ hw hm).trans (if_pos rfl)
  have hexecConsume : exec .consume (converted d s) = .next (sampled d s) :=
    ((ifNext_eq (s := converted d s) _ hw hm).trans (if_pos rfl)).trans
      (congrArg finish (consume_of_room (s := converted d s) hroom))
  rw [sampleMacro, execAll_cons_of_next hexecStart, execAll_cons_of_next hexecDone,
    execAll_cons_of_next hexecWake, execAll_cons_of_next hexecConsume, execAll]

/-- Settles O47: CONSUME meets the stack and the sequencer of the first state, with `d` for the raw sample. -/
theorem sampleRunsOneConversion : Obligations.SampleRunsOneConversion := by
  intro s d hw hm hphase hg ht
  have hroom : depth s < cap s := depth_lt_cap_of_startGuard hg ht
  obtain ⟨hctr, hseq⟩ := advance_congr (s := s) (t := converted d s) rfl rfl rfl
  simp only [seqOf, Sqr.mk.injEq] at hseq
  obtain ⟨hchan, hsub, hmcount, hside, hmuxA, hmuxB⟩ := hseq
  have hframe := advance_frame (converted d s)
  refine ⟨sampled d s, execAll_sampleMacro d hw hm hphase hg hroom, rfl, rfl, ?_, ?_, held_of_store rfl rfl hroom,
    ?_, hctr, hchan, hsub, hmcount, hside, hmuxA, hmuxB⟩
  all_goals
    rw [sampled, hframe]
    rfl

end Sys2Proof.Machine
end

section
/-! The obligations of 40_sample_buffer.md on one run: the index and its predicates (R100, R101), the three operations
(R102 to R104) and the laws of the stack (R105 to R109). -/

namespace Sys2Proof.Machine

open Sys2Proof.Safety

/-! The index. -/

theorem isEmpty_iff_toInt (s : State) : isEmpty s = true ↔ s.top.toInt = -1 := by
  rw [isEmpty, beq_iff_eq, ← BitVec.toInt_inj]
  rfl

theorem isFull_iff_toInt (s : State) : isFull s = true ↔ s.top.toInt = (cap s : Int) - 1 := by
  have hlast : (BitVec.ofNat 7 (cap s - 1)).toInt = (cap s : Int) - 1 := by
    rcases cap_cases s with ⟨-, h⟩ | ⟨-, h⟩ <;> rw [h] <;> rfl
  rw [isFull, beq_iff_eq, ← BitVec.toInt_inj, hlast]

/-- In its range the index is one less than the number of words held. -/
theorem top_toInt_of_depth_le {s : State} (h : depth s ≤ cap s) : s.top.toInt = (depth s : Int) - 1 := by
  rw [depth_eq] at h ⊢
  rw [BitVec.toInt_eq_toNat_cond]
  rcases cap_cases s with ⟨-, hc⟩ | ⟨-, hc⟩ <;> rw [hc] at h <;> split <;> omega

theorem top_succ_toInt {s : State} (h : depth s < cap s) : (s.top + 1).toInt = depth s := by
  rw [BitVec.toInt_eq_toNat_cond, show (s.top + 1).toNat = depth s from rfl]
  rcases cap_cases s with ⟨-, hc⟩ | ⟨-, hc⟩ <;> rw [hc] at h <;> split <;> omega

theorem top_pred_toInt {s : State} {n : Nat} (h : depth s = n + 1) (hn : n < cap s) :
    (s.top - 1).toInt = (n : Int) - 1 := by
  have hd : depth (s.setTop (s.top - 1)) = n := depth_setTop_pred h
  have hle : depth (s.setTop (s.top - 1)) ≤ cap (s.setTop (s.top - 1)) := hd ▸ hn.le
  rw [show (s.top - 1).toInt = _ from top_toInt_of_depth_le hle, hd]

theorem top_eq_of_depth_eq {s t : State} (h : depth t = depth s) : t.top = s.top :=
  add_right_cancel (BitVec.eq_of_toNat_eq h)

theorem depth_of_empty {s : State} (h : s.top = emptyTop) : depth s = 0 := by
  rw [depth, h]
  rfl

theorem depth_lt_cap_of_not_full {s : State} (hf : isFull s = false) (h : depth s ≤ cap s) : depth s < cap s :=
  h.lt_of_ne fun he => by simp [(stackFull_iff s).2 he] at hf

theorem depth_eq_succ_of_not_empty {s : State} (he : isEmpty s = false) : ∃ n, depth s = n + 1 :=
  Nat.exists_eq_succ_of_ne_zero fun h0 => by simp [(stackEmpty_iff s).2 h0] at he

/-! The words held. -/

theorem held_length (s : State) : (held s).length = depth s := by simp [held]

theorem held_of_depth_zero {s : State} (h : depth s = 0) : held s = [] := by simp [held, h]

theorem held_of_depth_succ {s : State} {n : Nat} (h : depth s = n + 1) :
    held s = (List.range n).map (slot s) ++ [slot s n] := by
  simp [held, h, List.range_succ]

/-- The held words after the index goes down by one. -/
theorem held_of_pop {s t : State} {n : Nat} (h : depth s = n + 1) (htop : t.top = s.top - 1)
    (hstack : t.stack = s.stack) : held t = (held s).dropLast := by
  have hdepth : depth t = n := by
    rw [← depth_setTop_pred h, depth, htop]
    rfl
  have hslot : slot t = slot s := by
    funext i
    rw [slot, slot, hstack]
  rw [held_of_depth_succ h, List.dropLast_concat, held, hdepth, hslot]

/-! What the three operations answer in a UNIT trace, case by case. -/

section
variable {s : State} (hw : s.cfg.wf = true) (hm : s.trace.mode = .unit)
include hw hm

theorem exec_push_of_full (d : Sample) (h : depth s = cap s) : exec (.push d) s = .next s := by
  rw [exec_push_of_unit d hw hm, push_full d h]
  rfl

theorem exec_push_of_room (d : Sample) (h : depth s < cap s) :
    exec (.push d) s = .next { s with top := s.top + 1, stack := s.stack.setIfInBounds (depth s) d } := by
  rw [exec_push_of_unit d hw hm, push_room d h]
  rfl

theorem exec_pop_of_empty (h : depth s = 0) :
    exec .pop s = .next { s with out := s.out ++ [.popped s.cfg.sentinel] } := by
  rw [exec_pop_of_unit hw hm, pop_empty h]
  rfl

theorem exec_pop_of_held {n : Nat} (h : depth s = n + 1) (hn : n < cap s) :
    exec .pop s = .next { s with top := s.top - 1, out := s.out ++ [.popped (slot s n)] } := by
  rw [exec_pop_of_unit hw hm, pop_held h hn]
  rfl

theorem exec_drain_of_range (h : depth s ≤ cap s) :
    exec .drain s = .next { s with top := -1, out := s.out ++ [.line (held s).reverse, .flush] } := by
  rw [exec_drain_of_unit hw hm, drain_held h]
  exact congrArg Host.Outcome.next (congrArg (State.setOut (s.setTop emptyTop)) (List.append_assoc ..))

theorem exec_drain_of_empty (h : s.top = emptyTop) :
    exec .drain s = .next { s with out := s.out ++ [.line [], .flush] } := by
  have hd := depth_of_empty h
  rw [exec_drain_of_range hw hm (hd ▸ Nat.zero_le _), held_of_depth_zero hd, show (-1 : BitVec 7) = s.top from h.symm]
  rfl

end

/-! The obligations on one operation. -/

/-- Settles O8: both predicates compare the index, and CAP is not 0. -/
theorem emptyAndFullReadTheIndex : Obligations.EmptyAndFullReadTheIndex := by
  refine fun s => ⟨isEmpty_iff_toInt s, isFull_iff_toInt s, ?_⟩
  rw [isEmpty_iff_toInt, isFull_iff_toInt]
  have hcap := cap_pos s
  omega

/-- Settles O9: in its range the index plus 1 is the number of words held, the slot PUSH writes. -/
theorem pushAppendsOrDiscards : Obligations.PushAppendsOrDiscards := by
  intro s d hw
  refine ⟨rfl, fun hm => ?_, fun hm hf => ?_, fun hm hf ht => ?_⟩
  · exact exec_of_not_admittedIn hw (by rw [hm]; rfl)
  · exact exec_push_of_full hw hm d ((stackFull_iff s).1 hf)
  · rw [topInRange_iff] at ht
    have hslot : (s.top.toInt + 1).toNat = depth s := by
      have htop := top_toInt_of_depth_le ht
      omega
    rw [hslot]
    exact exec_push_of_room hw hm d (depth_lt_cap_of_not_full hf ht)

/-- Settles O10: on a stack of `n + 1` words the index is `n`, the slot POP reads. -/
theorem popRemovesTheLastOrReturnsSentinel : Obligations.PopRemovesTheLastOrReturnsSentinel := by
  intro s hw
  refine ⟨rfl, fun hm => ?_, fun hm he => ?_, fun hm he ht => ?_⟩
  · exact exec_of_not_admittedIn hw (by rw [hm]; rfl)
  · exact exec_pop_of_empty hw hm ((stackEmpty_iff s).1 he)
  · rw [topInRange_iff] at ht
    obtain ⟨n, hn⟩ := depth_eq_succ_of_not_empty he
    have hslot : s.top.toInt.toNat = n := by
      have htop := top_toInt_of_depth_le ht
      omega
    rw [hslot]
    exact exec_pop_of_held hw hm hn (by omega)

/-- Settles O11: the loop of DRAIN pops each of the `top + 1` held words. -/
theorem drainEmitsTheStackReversed : Obligations.DrainEmitsTheStackReversed := by
  intro s hw
  refine ⟨rfl, fun hm => ?_, fun hm ht => ?_⟩
  · exact exec_of_not_admittedIn hw (by rw [hm]; rfl)
  · rw [topInRange_iff] at ht
    refine ⟨?_, exec_drain_of_range hw hm ht⟩
    rw [held_length, top_toInt_of_depth_le ht]
    omega

/-- Settles O14: the state a DRAIN leaves holds no word. -/
theorem drainMovesTheStackOut : Obligations.DrainMovesTheStackOut := by
  intro s hw hm ht
  rw [topInRange_iff] at ht
  exact ⟨_, _, exec_drain_of_range hw hm ht, rfl, exec_drain_of_empty hw hm rfl, rfl⟩

/-! The stack as the list of the words it holds. -/

/-- A state that runs the buffer's operations: an accepted configuration, a UNIT trace, an index in range. -/
structure UnitReady (s : State) : Prop where
  wf : s.cfg.wf = true
  mode : s.trace.mode = .unit
  range : depth s ≤ cap s

theorem UnitReady.of_exec {s t : State} {i : Instr} (h : UnitReady s) (hx : exec i s = .next t) : UnitReady t := by
  have he := exec_effect hx
  obtain ⟨hcfg, htrace, -⟩ := he.output
  exact ⟨hcfg ▸ h.wf, htrace ▸ h.mode, (topInRange_iff t).1 (he.topInRange ((topInRange_iff s).2 h.range))⟩

theorem exec_push_held {s : State} (h : UnitReady s) (d : Sample) :
    ∃ t, exec (.push d) s = .next t ∧ t.out = s.out ∧
      held t = if (held s).length < cap s then held s ++ [d] else held s := by
  rw [held_length]
  split
  · next hroom => exact ⟨_, exec_push_of_room h.wf h.mode d hroom, rfl, held_of_store rfl rfl hroom⟩
  · next hfull => exact ⟨s, exec_push_of_full h.wf h.mode d (h.range.antisymm (not_lt.1 hfull)), rfl, rfl⟩

theorem exec_pop_held {s : State} (h : UnitReady s) :
    ∃ t, exec .pop s = .next t ∧ held t = (held s).dropLast ∧
      t.out = s.out ++ [.popped ((held s).getLast?.getD s.cfg.sentinel)] := by
  cases hd : depth s with
  | zero =>
    refine ⟨_, exec_pop_of_empty h.wf h.mode hd, ?_, by rw [held_of_depth_zero hd]; rfl⟩
    rw [held_of_depth_zero hd]
    exact held_of_depth_zero hd
  | succ n =>
    have hn : n < cap s := by
      have hr := h.range
      omega
    refine ⟨_, exec_pop_of_held h.wf h.mode hd hn, held_of_pop hd rfl rfl, ?_⟩
    rw [held_of_depth_succ hd, List.getLast?_concat]
    rfl

/-- Settles O16: the list of held words follows each operation, at both ends of the index's range too. -/
theorem stackIsAListOfSamples : Obligations.StackIsAListOfSamples := by
  intro s hw hm ht
  have h : UnitReady s := ⟨hw, hm, (topInRange_iff s).1 ht⟩
  refine ⟨fun d => ?_, exec_pop_held h, _, exec_drain_of_range hw hm h.range,
    held_of_depth_zero (depth_of_empty rfl), rfl⟩
  obtain ⟨t, hx, -, hheld⟩ := exec_push_held h d
  exact ⟨t, hx, hheld⟩

/-! Several operations in a row. -/

theorem execAll_append_of_next {is js : List Instr} {s t : State} (h : execAll is s = .next t) :
    execAll (is ++ js) s = execAll js t := by
  induction is generalizing s with
  | nil =>
    cases h
    rfl
  | cons i is ih =>
    cases hx : exec i s with
    | next u =>
      rw [execAll_cons_of_next hx] at h
      rw [List.cons_append, execAll_cons_of_next hx, ih h]
    | fault f => simp [execAll, hx, andThen] at h
    | refused e => simp [execAll, hx, andThen] at h

theorem UnitReady.of_execAll {is : List Instr} {s t : State} (h : UnitReady s) (hx : execAll is s = .next t) :
    UnitReady t := by
  induction is generalizing s with
  | nil =>
    cases hx
    exact h
  | cons i is ih =>
    cases hu : exec i s with
    | next u => exact ih (h.of_exec hu) (execAll_cons_of_next hu ▸ hx)
    | fault f => simp [execAll, hu, andThen] at hx
    | refused e => simp [execAll, hu, andThen] at hx

/-- Pushes that fit and as many POPs leave the held words as they were, those below the pushed ones included. -/
theorem execAll_push_pop (vs : List Sample) {s : State} (h : UnitReady s) (hfit : depth s + vs.length ≤ cap s) :
    ∃ t, execAll (vs.map .push ++ List.replicate vs.length .pop) s = .next t ∧
      t.out = s.out ++ vs.reverse.map .popped ∧ held t = held s := by
  induction vs generalizing s with
  | nil => exact ⟨s, rfl, (List.append_nil _).symm, rfl⟩
  | cons v vs ih =>
    rw [List.length_cons] at hfit
    obtain ⟨u, hpush, houtu, hheldu⟩ := exec_push_held h v
    rw [if_pos (by rw [held_length]; omega)] at hheldu
    have hu := h.of_exec hpush
    have hdepth : depth u = depth s + 1 := by simp [← held_length, hheldu]
    have hcap : cap u = cap s := (exec_effect hpush).cap_eq
    obtain ⟨t, hmid, houtt, hheldt⟩ := ih hu (by omega)
    obtain ⟨r, hpop, hheldr, houtr⟩ := exec_pop_held (hu.of_execAll hmid)
    refine ⟨r, ?_, ?_, ?_⟩
    · rw [List.length_cons, List.replicate_succ', List.map_cons, List.cons_append, execAll_cons_of_next hpush,
        ← List.append_assoc, execAll_append_of_next hmid, execAll_cons_of_next hpop, execAll]
    · rw [houtr, houtt, houtu, hheldt, hheldu]
      simp
    · rw [hheldr, hheldt, hheldu, List.dropLast_concat]

/-- Settles O12: the held words come back, and their number gives the index. -/
theorem popsReturnPushesInReverse : Obligations.PopsReturnPushesInReverse := by
  intro s vs hw hm ht hfit
  rw [topInRange_iff] at ht
  rw [top_toInt_of_depth_le ht] at hfit
  obtain ⟨t, hx, hout, hheld⟩ := execAll_push_pop vs (s := s) ⟨hw, hm, ht⟩ (by omega)
  exact ⟨t, hx, hout, top_eq_of_depth_eq (by rw [← held_length, hheld, held_length])⟩

theorem execAll_pops_depth (n : Nat) {s : State} (h : UnitReady s) :
    ∃ t, execAll (List.replicate n .pop) s = .next t ∧ depth t = depth s - n := by
  induction n generalizing s with
  | zero => exact ⟨s, rfl, rfl⟩
  | succ n ih =>
    obtain ⟨u, hpop, hheld, -⟩ := exec_pop_held h
    obtain ⟨t, hpops, hdepth⟩ := ih (h.of_exec hpop)
    refine ⟨t, (execAll_cons_of_next hpop).trans hpops, ?_⟩
    rw [hdepth, ← held_length, hheld, List.length_dropLast, held_length]
    omega

theorem execAll_pops_of_empty (n : Nat) {s : State} (hw : s.cfg.wf = true) (hm : s.trace.mode = .unit)
    (h : depth s = 0) :
    execAll (List.replicate n .pop) s =
      .next { s with out := s.out ++ List.replicate n (.popped s.cfg.sentinel) } := by
  induction n generalizing s with
  | zero => rw [List.replicate_zero, List.replicate_zero, List.append_nil, execAll]
  | succ n ih =>
    rw [List.replicate_succ, execAll_cons_of_next (exec_pop_of_empty hw hm h),
      ih (s := { s with out := s.out ++ [.popped s.cfg.sentinel] }) hw hm h, List.replicate_succ, List.append_assoc,
      List.singleton_append]

/-- Settles O13: each POP takes one word while there is one, and at most CAP words are held. -/
theorem popsOfTheEmptyStackAreIdempotent : Obligations.PopsOfTheEmptyStackAreIdempotent := by
  intro s hw hm
  refine ⟨fun ht => ?_, fun n he => execAll_pops_of_empty n hw hm ((stackEmpty_iff s).1 he)⟩
  rw [topInRange_iff] at ht
  obtain ⟨t, hx, hdepth⟩ := execAll_pops_depth (cap s) (s := s) ⟨hw, hm, ht⟩
  exact ⟨t, hx, (stackEmpty_iff t).2 (by omega)⟩

end Sys2Proof.Machine
end

section
/-! The obligation of 40_sample_buffer.md on two states at once: no operation tells apart states that agree but in the
slots above `top` (R108). -/

namespace Sys2Proof.Safety

open Sys2Proof.Machine

/-! Effects that neither read nor write the stack. -/

/-- An effect that is the same whatever words the stack holds, and leaves them and the index. -/
structure IgnoresStack (f : State → State) : Prop where
  commutes : ∀ (u : State) (x : Vector Sample maxSlots), f (u.setStack x) = (f u).setStack x
  top : ∀ u : State, (f u).top = u.top

theorem IgnoresStack.stack {f : State → State} (hf : IgnoresStack f) (u : State) : (f u).stack = u.stack :=
  (congrArg State.stack (hf.commutes u u.stack) :)

theorem ignoresStack_emit (r : Record) : IgnoresStack (emit r) := ⟨fun _ _ => rfl, fun _ => rfl⟩

theorem ignoresStack_tickBlock : IgnoresStack tickBlock where
  commutes u x := by
    simp only [tickBlock, State.setStack_fields]
    split
    · rfl
    · split <;> rfl
  top u := by rw [tickBlock_frame]

theorem ignoresStack_nextChan : IgnoresStack nextChan where
  commutes u x := by
    have hc : seqOf (nextChan (u.setStack x)) = seqOf (nextChan u) := by
      rw [seqOf_nextChan, seqOf_nextChan]
      rfl
    simp only [seqOf, Sqr.mk.injEq] at hc
    obtain ⟨hchan, hsub, -⟩ := hc
    rw [nextChan_frame, hchan, hsub, nextChan_frame u]
    rfl
  top u := by rw [nextChan_frame]

theorem ignoresStack_nextMux : IgnoresStack nextMux where
  commutes u x := by
    have hc : seqOf (nextMux (u.setStack x)) = seqOf (nextMux u) := by
      rw [seqOf_nextMux, seqOf_nextMux]
      rfl
    simp only [seqOf, Sqr.mk.injEq] at hc
    obtain ⟨-, -, hmcount, hside, hmuxA, hmuxB⟩ := hc
    rw [nextMux_frame, hmcount, hside, hmuxA, hmuxB, nextMux_frame u]
    rfl
  top u := by rw [nextMux_frame]

theorem ignoresStack_advance : IgnoresStack advance where
  commutes u x := by
    cases hv : u.cfg.variant with
    | simple =>
      rw [advance_of_simple hv, advance_of_simple (s := u.setStack x) hv]
      rfl
    | extended =>
      rw [advance_of_extended hv, advance_of_extended (s := u.setStack x) hv, ignoresStack_nextChan.commutes,
        ignoresStack_nextMux.commutes]
  top u := by rw [advance_frame]

/-! Two states that agree to `top`. -/

section
variable {s t : State} (h : AgreeToTop s t)
include h

theorem AgreeToTop.apply {f : State → State} (hf : IgnoresStack f) : AgreeToTop (f s) (f t) where
  fields := by rw [hf.stack, ← hf.commutes, h.fields]
  slots n hn := by
    rw [slot, slot, hf.stack, hf.stack]
    exact h.slots n (hf.top s ▸ hn)

theorem AgreeToTop.top_eq : t.top = s.top := (congrArg State.top h.fields :)

theorem AgreeToTop.depth_eq : depth t = depth s := by rw [depth, depth, h.top_eq]

theorem AgreeToTop.cfg_eq : t.cfg = s.cfg := (congrArg State.cfg h.fields :)

theorem AgreeToTop.trace_eq : t.trace = s.trace := (congrArg State.trace h.fields :)

theorem AgreeToTop.rawSample_eq : t.rawSample = s.rawSample :=
  (congrArg State.rawSample h.fields :)

theorem AgreeToTop.cap_eq : cap t = cap s := cap_congr h.cfg_eq

theorem AgreeToTop.ctlNext_eq : ctlNext t = ctlNext s := by
  rw [← h.fields]
  rfl

theorem AgreeToTop.slot_eq {n : Nat} (hr : depth s ≤ cap s) (hn : n < depth s) : slot s n = slot t n := by
  refine h.slots n ?_
  rw [top_toInt_of_depth_le hr]
  omega

theorem AgreeToTop.held_eq (hr : depth s ≤ cap s) : held s = held t := by
  rw [held, held, h.depth_eq]
  exact List.map_congr_left fun n hn => h.slot_eq hr (List.mem_range.1 hn)

/-- Lowering the index leaves fewer slots to agree in. -/
theorem AgreeToTop.lower {x : BitVec 7} (hx : 0 ≤ x.toInt → x.toInt ≤ s.top.toInt) :
    AgreeToTop (s.setTop x) (t.setTop x) where
  fields := congrArg (State.setTop · x) h.fields
  slots n hn := by
    have hnx : (n : Int) ≤ x.toInt := hn
    exact h.slots n (hnx.trans (hx (by omega)))

theorem AgreeToTop.setTop_empty : AgreeToTop (s.setTop emptyTop) (t.setTop emptyTop) :=
  h.lower fun hx => absurd hx (by decide)

theorem AgreeToTop.resetBlock : AgreeToTop (resetBlock s) (resetBlock t) where
  fields := congrArg Machine.resetBlock h.fields
  slots n hn := absurd (show (n : Int) ≤ -1 from hn) (by omega)

/-- The slot above `top` comes below it only with a new word. -/
theorem AgreeToTop.store (d : Sample) (hroom : depth s < cap s) :
    AgreeToTop ((s.setTop (s.top + 1)).setStack (s.stack.setIfInBounds (depth s) d))
      ((t.setTop (t.top + 1)).setStack (t.stack.setIfInBounds (depth s) d)) where
  fields := by
    rw [← h.fields]
    rfl
  slots n hn := by
    have hle : (n : Int) ≤ depth s := top_succ_toInt hroom ▸ hn
    by_cases hnew : n = depth s
    · simp only [slot, hnew, State.setStack_fields, Vector.getElem?_setIfInBounds_self]
    · have hold : slot s n = slot t n := h.slot_eq hroom.le (by omega)
      exact (slot_of_setIfInBounds_ne (s := s) rfl (Ne.symm hnew)).trans
        (hold.trans (slot_of_setIfInBounds_ne (s := t) rfl (Ne.symm hnew)).symm)

end

/-! Answers alike. -/

theorem alike_finish_map {d e : Except Fault State} {f : State → State} (hf : IgnoresStack f)
    (h : Alike AgreeToTop (finish d) (finish e)) : Alike AgreeToTop (finish (d.map f)) (finish (e.map f)) := by
  cases d with
  | ok u =>
    cases e with
    | ok v => exact AgreeToTop.apply h hf
    | error g => exact h
  | error g =>
    cases e with
    | ok v => exact h
    | error g' => exact h

section
variable {s t : State} (h : AgreeToTop s t)
include h

theorem alike_ifAdmitted {i : Instr} {k l : Result} (hk : Alike AgreeToTop k l) :
    Alike AgreeToTop (ifAdmitted i s k) (ifAdmitted i t l) := by
  rw [ifAdmitted, ifAdmitted, h.cfg_eq, h.trace_eq]
  split
  · rfl
  · split
    · rfl
    · exact hk

theorem alike_ifNext {a : CtlAction} {k l : Result} (hk : Alike AgreeToTop k l) :
    Alike AgreeToTop (ifNext a s k) (ifNext a t l) := by
  refine alike_ifAdmitted h ?_
  rw [h.ctlNext_eq]
  split
  · exact hk
  · rfl

theorem alike_ifAdmitted_next {i : Instr} {f : State → State} (hf : IgnoresStack f) :
    Alike AgreeToTop (ifAdmitted i s (.next (f s))) (ifAdmitted i t (.next (f t))) :=
  alike_ifAdmitted h (k := .next _) (l := .next _) (h.apply hf)

theorem alike_ifNext_next {a : CtlAction} {f : State → State} (hf : IgnoresStack f) :
    Alike AgreeToTop (ifNext a s (.next (f s))) (ifNext a t (.next (f t))) :=
  alike_ifNext h (k := .next _) (l := .next _) (h.apply hf)

theorem alike_push (d : Sample) : Alike AgreeToTop (finish (push d s)) (finish (push d t)) := by
  have hdepth := h.depth_eq
  have hcap := h.cap_eq
  rcases Nat.lt_trichotomy (depth s) (cap s) with hd | hd | hd
  · rw [push_room d hd, push_room d (s := t) (by omega), hdepth]
    exact h.store d hd
  · rw [push_full d hd, push_full d (s := t) (by omega)]
    exact h
  · rw [push_outside d hd, push_outside d (s := t) (by omega), h.top_eq]
    rfl

theorem alike_pop :
    Alike AgreeToTop (finish ((pop s).map fun r => emit (.popped r.1) r.2))
      (finish ((pop t).map fun r => emit (.popped r.1) r.2)) := by
  have hdepth := h.depth_eq
  have hcap := h.cap_eq
  cases hd : depth s with
  | zero =>
    rw [pop_empty hd, pop_empty (hdepth.trans hd), h.cfg_eq]
    exact h.apply (ignoresStack_emit _)
  | succ n =>
    by_cases hn : n < cap s
    · have hlower : AgreeToTop (s.setTop (s.top - 1)) (t.setTop (s.top - 1)) := h.lower fun _ => by
        rw [top_pred_toInt hd hn, top_toInt_of_depth_le (hd ▸ hn)]
        omega
      rw [pop_held hd hn, pop_held (hdepth.trans hd) (hcap ▸ hn), h.top_eq, h.slot_eq (hd ▸ hn) (by omega)]
      exact hlower.apply (ignoresStack_emit _)
    · rw [pop_outside (by omega), pop_outside (s := t) (by omega), h.top_eq]
      rfl

theorem alike_drain : Alike AgreeToTop (finish (drain s)) (finish (drain t)) := by
  have hdepth := h.depth_eq
  have hcap := h.cap_eq
  by_cases hd : depth s ≤ cap s
  · rw [drain_held hd, drain_held (s := t) (by omega), h.held_eq hd]
    exact (h.setTop_empty.apply (ignoresStack_emit _)).apply (ignoresStack_emit _)
  · rw [drain_outside (not_le.1 hd), drain_outside (s := t) (by omega), h.top_eq]
    rfl

theorem alike_transmit : Alike AgreeToTop (finish (transmit s)) (finish (transmit t)) :=
  alike_finish_map (f := closeSweep) ⟨fun _ _ => rfl, fun _ => rfl⟩ (alike_drain h)

theorem alike_consume : Alike AgreeToTop (finish (consume s)) (finish (consume t)) := by
  have hadvance := h.apply ignoresStack_advance
  rw [consume, consume, hadvance.rawSample_eq]
  exact alike_finish_map (f := countSample) ⟨fun _ _ => rfl, fun _ => rfl⟩ (alike_push hadvance _)

end

/-- Settles O15: POP and DRAIN read no slot above `top`, PUSH and CONSUME write the slot they take in, RESET
empties the stack, and no other operation meets it. -/
theorem slotsAboveTopAreUnobservable : Obligations.SlotsAboveTopAreUnobservable := by
  intro i s t h
  cases i with
  | reset => exact alike_ifAdmitted (i := .reset) (k := .next _) (l := .next _) h h.resetBlock
  | tick => exact alike_ifAdmitted_next (i := .tick) h ignoresStack_tickBlock
  | nextChan => exact alike_ifAdmitted_next h ignoresStack_nextChan
  | nextMux => exact alike_ifAdmitted_next h ignoresStack_nextMux
  | convDone d => exact alike_ifAdmitted_next h (f := convDone d) ⟨fun _ _ => rfl, fun _ => rfl⟩
  | advanceSimple => exact alike_ifAdmitted_next h (f := advanceSimple) ⟨fun _ _ => rfl, fun _ => rfl⟩
  | startConv => exact alike_ifNext_next h (f := startConv) ⟨fun _ _ => rfl, fun _ => rfl⟩
  | wake => exact alike_ifNext_next h (f := wake) ⟨fun _ _ => rfl, fun _ => rfl⟩
  | pass => exact alike_ifNext_next h (f := passPhase) ⟨fun _ _ => rfl, fun _ => rfl⟩
  | push d => exact alike_ifAdmitted h (alike_push h d)
  | pop => exact alike_ifAdmitted h (alike_pop h)
  | drain => exact alike_ifAdmitted h (alike_drain h)
  | transmit => exact alike_ifNext h (alike_transmit h)
  | consume => exact alike_ifNext h (alike_consume h)

end Sys2Proof.Safety
end

section
/-! The obligations of 41_channel_sequencer.md on the sequencer's operations: the channel select (R132, R135), one
operation each (R131, R133, R134, R136, R141), `advance` (R138) and the cycles (R139, R140, R145). -/

namespace Sys2Proof.Machine

open Sys2Proof.Safety

/-! The channel select. -/

theorem selChan_of_simple {s : State} (hv : s.cfg.variant = .simple) : selChan s = s.ctr.extractLsb' 0 4 := by
  apply BitVec.eq_of_toNat_eq
  simp [selChan, params, paramsOf, hv]

theorem selChan_toNat_of_simple {s : State} (hv : s.cfg.variant = .simple) :
    (selChan s).toNat = s.ctr.toNat % 16 := by
  rw [selChan_of_simple hv, BitVec.extractLsb'_toNat, Nat.shiftRight_zero]

theorem selChan_of_extended {s : State} (hv : s.cfg.variant = .extended) : selChan s = s.chan := by
  simp [selChan, hv]

/-- Settles O20: the select is the low half of `ctr`, or `chan`. -/
theorem channelSelectFollowsState : Obligations.ChannelSelectFollowsState := by
  intro s
  refine ⟨fun hv => ⟨selChan_of_simple hv, selChan_toNat_of_simple hv⟩, selChan_of_extended, ?_⟩
  rw [levels, beq_eq_decide]

/-- Settles O21: the parameter table's HOLD, REF_HOLD and NMUX are the same in both variants. -/
theorem holdCountsByChannel : Obligations.HoldCountsByChannel := holdOf_eq

/-! In a UNIT trace of its variant each operation is its micro-operation. -/

section
variable {s : State} (hw : s.cfg.wf = true) (hm : s.trace.mode = .unit)
include hw hm

theorem exec_advanceSimple_of_unit (hv : s.cfg.variant = .simple) :
    exec .advanceSimple s = .next (advanceSimple s) :=
  ifAdmitted_eq _ hw (by rw [hm, hv]; rfl)

theorem exec_nextChan_of_unit (hv : s.cfg.variant = .extended) : exec .nextChan s = .next (nextChan s) :=
  ifAdmitted_eq _ hw (by rw [hm, hv]; rfl)

theorem exec_nextMux_of_unit (hv : s.cfg.variant = .extended) : exec .nextMux s = .next (nextMux s) :=
  ifAdmitted_eq _ hw (by rw [hm, hv]; rfl)

end

/-- Settles O19: the next value of `ctr`, and its low half, go on by one. -/
theorem advanceSimpleCounts : Obligations.AdvanceSimpleCounts := by
  intro s hw
  refine ⟨rfl, fun hm => ?_, fun hm hv => ?_, fun hm hv => ⟨?_, ?_⟩⟩
  · exact exec_of_not_admittedIn hw (by rw [hm]; rfl)
  · exact exec_of_admission hw (by rw [hm, hv]; rfl)
  · rw [exec_advanceSimple_of_unit hw hm hv, advanceSimple_eq]
  · apply BitVec.eq_of_toNat_eq
    rw [selChan_toNat_of_simple (s := { s with ctr := s.ctr + 1 }) hv, BitVec.toNat_add, BitVec.toNat_add,
      selChan_toNat_of_simple hv]
    simp

/-- Settles O22: `nextChan_eq`, behind the checks of mode and variant. -/
theorem nextChanHoldsThenAdvances : Obligations.NextChanHoldsThenAdvances := by
  intro s hw
  refine ⟨rfl, fun hm => ?_, fun hm hv => ?_, fun hm hv => ?_⟩
  · exact exec_of_not_admittedIn hw (by rw [hm]; rfl)
  · exact exec_of_admission hw (by rw [hm, hv]; rfl)
  · rw [exec_nextChan_of_unit hw hm hv, nextChan_eq]

/-- Settles O23: NEXT_MUX by channel, counter and side. -/
theorem nextMuxCountsThenDrives : Obligations.NextMuxCountsThenDrives := by
  intro s hw
  refine ⟨rfl, fun hm => ?_, fun hm hv => ?_, fun hm hv => ?_⟩
  · exact exec_of_not_admittedIn hw (by rw [hm]; rfl)
  · exact exec_of_admission hw (by rw [hm, hv]; rfl)
  rw [exec_nextMux_of_unit hw hm hv]
  by_cases hchan : 8 ≤ s.chan.toNat
  · rw [if_pos hchan, nextMux_reference hchan]
  rw [if_neg hchan]
  rw [not_le] at hchan
  by_cases hlast : s.mcount = 15
  · rw [if_pos hlast, nextMux_wrap hchan hlast]
    cases s.side <;> rfl
  · rw [if_neg hlast, nextMux_count hchan hlast]
    cases s.side <;> rfl

/-- Settles O27: the group driven is the side's after the count, and it takes the counter after the count. -/
theorem drivenGroupShowsTheCounter : Obligations.DrivenGroupShowsTheCounter := by
  intro s hw hm hv hchan
  refine ⟨nextMux s, exec_nextMux_of_unit hw hm hv, ?_⟩
  by_cases hlast : s.mcount = 15
  · rw [nextMux_wrap hchan hlast]
    cases hside : s.side <;> simp [GroupShowsCounter, groupLines, otherSide, hlast]
  · rw [nextMux_count hchan hlast]
    have hlast' : s.mcount ≠ 15#4 := hlast
    cases hside : s.side <;> simp [GroupShowsCounter, groupLines, hlast']

/-! `advance`. -/

/-- Settles O24: `advance` is the micro-operations of the variant, and these have frames. -/
theorem advanceIsChannelThenMux : Obligations.AdvanceIsChannelThenMux := by
  intro s
  refine ⟨fun hw hm hv => ?_, fun hw hm hv => ?_, advance_of_simple, fun hv => ?_⟩
  · rw [exec_advanceSimple_of_unit hw hm hv, advanceSimple_eq, advance_of_simple hv]
  · have hframe := nextChan_frame s
    have hmux : exec .nextMux (nextChan s) = .next (nextMux (nextChan s)) :=
      exec_nextMux_of_unit (by rw [hframe]; exact hw) (by rw [hframe]; exact hm) (by rw [hframe]; exact hv)
    rw [execAll_cons_of_next (exec_nextChan_of_unit hw hm hv), execAll_cons_of_next hmux, execAll,
      advance_of_extended hv]
  · rw [advance_of_extended hv, nextMux_frame, nextChan_frame]

/-! The channel and the sub-count. -/

/-- The channel and the sub-count after any number of calls of NEXT_CHAN depend on the channel and the sub-count
only. -/
theorem Sqr.chanN_congr (n : Nat) {q r : Sqr} (hc : q.chan = r.chan) (hs : q.sub = r.sub) :
    (Sqr.chanN n q).chan = (Sqr.chanN n r).chan ∧ (Sqr.chanN n q).sub = (Sqr.chanN n r).sub := by
  induction n with
  | zero => exact ⟨hc, hs⟩
  | succ n ih => exact Sqr.chanStep_congr ih.1 ih.2

/-- NEXT_MUX has no part in the channel and the sub-count, so these go on as under NEXT_CHAN alone. -/
theorem Sqr.advN_chanN (n : Nat) (q : Sqr) :
    (Sqr.advN n q).chan = (Sqr.chanN n q).chan ∧ (Sqr.advN n q).sub = (Sqr.chanN n q).sub := by
  induction n with
  | zero => exact ⟨rfl, rfl⟩
  | succ n ih =>
    obtain ⟨hchan, hsub⟩ := Sqr.chanStep_congr ih.1 ih.2
    obtain ⟨hchan', hsub'⟩ := (Sqr.advN n q).chanStep.muxStep_frame
    exact ⟨hchan'.trans hchan, hsub'.trans hsub⟩

/-- The sequencer at the beginning of a channel's hold, its groups and counter after reset. -/
def Sqr.holdStart (c : BitVec 4) : Sqr := { Sqr.zero with chan := c }

theorem advanceN_chan_of_holdStart {s : State} (hv : s.cfg.variant = .extended) (hs : s.sub = 0) (n : Nat) :
    (advanceN n s).chan = (Sqr.chanN n (.holdStart s.chan)).chan := by
  have hchan : (advanceN n s).chan = (Sqr.advN n (seqOf s)).chan := congrArg Sqr.chan (seqOf_advanceN hv n)
  rw [hchan, (Sqr.advN_chanN n _).1]
  exact (Sqr.chanN_congr (q := seqOf s) (r := .holdStart s.chan) n rfl hs).1

theorem Sqr.chanN_multiplexed : ∀ c : BitVec 4, c.toNat < 8 →
    (Sqr.chanN 1 (.holdStart c)).chan = c ∧ (Sqr.chanN 2 (.holdStart c)).chan = c ∧
      (Sqr.chanN 3 (.holdStart c)).chan = c ∧ (Sqr.chanN 4 (.holdStart c)).chan = c + 1 := by decide

/-- Settles O25: the channel as a function of the channel at sub-count 0, run for each of the ten. -/
theorem channelLeftAfterItsHold : Obligations.ChannelLeftAfterItsHold := by
  intro s hv hs
  simp only [advanceN_chan_of_holdStart hv hs]
  refine ⟨Sqr.chanN_multiplexed s.chan, fun hc => ?_, fun hc => ?_⟩ <;> rw [hc] <;> decide

/-! The cycle of the whole sequencer. -/

/-- A sweep's advances from its first row. -/
theorem advN_rowSqr (b : BitVec 4) {k : Nat} (hk : k ≤ 34) : Sqr.advN k (rowSqr 0 b) = rowSqr k b := by
  induction k with
  | zero => rfl
  | succ k ih => rw [Sqr.advN, ih (by omega), rowSqr_adv k (by omega)]

/-- Any number of advances from the first row, in rows of the table: after the last row the first comes again, with side
B's group at 15. -/
theorem advN_rowSqr_mod (n : Nat) (b : BitVec 4) :
    Sqr.advN n (rowSqr 0 b) = rowSqr (n % 34) (if n < 34 then b else 15) := by
  induction n using Nat.strong_induction_on generalizing b with
  | h n ih =>
    by_cases hn : n < 34
    · rw [advN_rowSqr b hn.le, Nat.mod_eq_of_lt hn, if_pos hn]
    · have hwrap : Sqr.advN 34 (rowSqr 0 b) = rowSqr 0 15 := advN_rowSqr b le_rfl
      have hsum : n - 34 + 34 = n := by omega
      rw [if_neg hn, ← hsum, Sqr.advN_add, hwrap, ih (n - 34) (by omega), ite_self, Nat.add_mod_right]

/-- From row 16 on a row does not depend on what the sweep found on side B's group. -/
theorem rowSqr_congr {k : Nat} (hk : 16 ≤ k) (b c : BitVec 4) : rowSqr k b = rowSqr k c := by
  simp only [rowSqr, if_neg (not_lt.2 hk)]

/-- What the sweep found on side B's group shows on that group only. -/
theorem rowSqr_frame (k : Nat) (b c : BitVec 4) : rowSqr k b = { rowSqr k c with muxB := (rowSqr k b).muxB } := by
  by_cases hk : k < 16
  · simp only [rowSqr, if_pos hk]
  · rw [rowSqr_congr (not_lt.1 hk) b c]

/-- The sequencer of EXTENDED `n` advances after reset. -/
theorem seqOf_advanceN_of_zero {s : State} (hv : s.cfg.variant = .extended) (hs : seqOf s = Sqr.zero) (n : Nat) :
    seqOf (advanceN n s) = rowSqr (n % 34) (if n < 34 then 0 else 15) := by
  rw [seqOf_advanceN hv, hs, ← rowSqr_zero, advN_rowSqr_mod]

theorem advanceN_ctr {s : State} (hv : s.cfg.variant = .simple) (n : Nat) :
    (advanceN n s).ctr = s.ctr + BitVec.ofNat 8 n := by
  induction n with
  | zero => exact (BitVec.add_zero _).symm
  | succ n ih =>
    rw [advanceN, advance_of_simple (by rw [advanceN_cfg]; exact hv), ih, BitVec.ofNat_add, BitVec.add_assoc]
    rfl

/-- Settles O28: in EXTENDED the advances from reset go round the sweep table, of which only the rows before 16 show
what side B's group was; in SIMPLE the counter is `n` modulo 256. -/
theorem sequencerIsPeriodic : Obligations.SequencerIsPeriodic := by
  intro s n m
  refine ⟨fun hv hc hs hm hd ha hb hmod => ?_, fun hv hctr hmod => ?_⟩
  · have hreset : seqOf s = Sqr.zero := by simp only [seqOf, hc, hs, hm, hd, ha, hb, Sqr.zero]
    have hn := seqOf_advanceN_of_zero hv hreset n
    have hm := seqOf_advanceN_of_zero hv hreset m
    rw [hmod] at hn
    have hrows := rowSqr_frame (m % 34) (if n < 34 then 0 else 15) (if m < 34 then 0 else 15)
    rw [← hn, ← hm] at hrows
    simp only [seqOf, Sqr.mk.injEq, and_true] at hrows
    obtain ⟨hchan, hsub, hmcount, hside, hmuxA⟩ := hrows
    refine ⟨hchan, hsub, hmcount, hside, hmuxA, fun hn32 hm32 => ?_⟩
    have hlate : seqOf (advanceN n s) = seqOf (advanceN m s) := by
      rw [hn, hm]
      by_cases hrow : 16 ≤ m % 34
      · exact rowSqr_congr hrow _ _
      · rw [if_neg (by omega), if_neg (by omega)]
    exact congrArg Sqr.muxB hlate
  · have hselect (k : Nat) : (selChan (advanceN k s)).toNat = k % 16 := by
      rw [selChan_toNat_of_simple (by rw [advanceN_cfg]; exact hv), advanceN_ctr hv, hctr, BitVec.toNat_add]
      simp
    exact BitVec.eq_of_toNat_eq (by rw [hselect, hselect, hmod])

/-! The cycle of the channel counter. -/

theorem Sqr.chanN_inv {q : Sqr} (h : q.Inv) (n : Nat) : (Sqr.chanN n q).Inv := by
  induction n with
  | zero => exact h
  | succ n ih => exact ih.chanStep

/-- Within a cycle the channel and the sub-count are those of the sweep table. -/
theorem Sqr.chanN_zero {n : Nat} (hn : n ≤ 34) :
    (Sqr.chanN n Sqr.zero).chan = (rowSqr n 0).chan ∧ (Sqr.chanN n Sqr.zero).sub = (rowSqr n 0).sub := by
  obtain ⟨hchan, hsub⟩ := Sqr.advN_chanN n Sqr.zero
  rw [← hchan, ← hsub, ← rowSqr_zero, advN_rowSqr 0 hn]
  exact ⟨rfl, rfl⟩

/-- No row between the first and the last has the first one's channel and sub-count. -/
theorem rowSqr_ne_zero : ∀ n < 34, 0 < n → ¬((rowSqr n 0).chan = 0 ∧ (rowSqr n 0).sub = 0) := by decide

/-- Each of the ten channels stands in a row. -/
theorem rowSqr_takes_channel : ∀ c ≤ 9, ∃ n < 34, (rowSqr n 0).chan = BitVec.ofNat 4 c := by decide

/-- Settles O26: NEXT_CHAN writes the channel and the sub-count only, and these go round the sweep table. -/
theorem channelPeriodIsThirtyFour : Obligations.ChannelPeriodIsThirtyFour := by
  intro s _ hc hs
  have hrun (n : Nat) : (nextChanN n s).chan = (Sqr.chanN n Sqr.zero).chan ∧
      (nextChanN n s).sub = (Sqr.chanN n Sqr.zero).sub := by
    have hseq := seqOf_nextChanN n s
    obtain ⟨hchan, hsub⟩ := Sqr.chanN_congr (q := seqOf s) (r := Sqr.zero) n hc hs
    exact ⟨(congrArg Sqr.chan hseq).trans hchan, (congrArg Sqr.sub hseq).trans hsub⟩
  have hrow {n : Nat} (hn : n ≤ 34) :
      (nextChanN n s).chan = (rowSqr n 0).chan ∧ (nextChanN n s).sub = (rowSqr n 0).sub :=
    ⟨(hrun n).1.trans (Sqr.chanN_zero hn).1, (hrun n).2.trans (Sqr.chanN_zero hn).2⟩
  refine ⟨(hrow (by decide)).1, (hrow (by decide)).1, ?_, fun n hpos hlt hback => ?_, fun c hle => ?_, fun n => ?_⟩
  · obtain ⟨hchan, hsub⟩ := hrow (n := 34) le_rfl
    rw [nextChanN_frame, hchan.trans hc.symm, hsub.trans hs.symm]
  · obtain ⟨hchan, hsub⟩ := hrow hlt.le
    rw [hback] at hchan hsub
    exact rowSqr_ne_zero n hlt hpos ⟨hchan.symm.trans hc, hsub.symm.trans hs⟩
  · obtain ⟨n, hlt, hchan⟩ := rowSqr_takes_channel c hle
    exact ⟨n, hlt, (hrow hlt.le).1.trans hchan⟩
  · rw [(hrun n).1]
    exact (Sqr.chanN_inv Sqr.zero_inv n).chan

end Sys2Proof.Machine
end

section
/-! The obligation of 41_channel_sequencer.md on SYSTEM traces (R142, R143, R146) with 43_scheduler.md R202: the
conversion counter is the number of words held, and it names the sequencer's row of the sweep table. -/

namespace Sys2Proof.Machine

open Sys2Proof.Safety

/-! The rows of R195. -/

/-- What holds of a state in which the action is `ctl_next` (R195). -/
def Enables (a : CtlAction) (s : State) : Prop :=
  match a with
  | .startConv => s.phase = .start ∧ startGuard s = true
  | .wake => s.phase = .wait ∧ s.convPending = false
  | .consume => s.phase = .consume ∧ consumeGuard s = true
  | .transmit => s.phase = .xmit ∧ xmitGuard s = true
  | .pass => s.phase ≠ .wait ∧ (s.phase = .xmit → xmitGuard s = false)

theorem enables_of_ctlNext {a : CtlAction} {s : State} (h : ctlNext s = some a) : Enables a s := by
  unfold ctlNext at h
  split at h <;> next hphase =>
    split_ifs at h <;> cases h <;> simp [Enables, *]

/-! The counter and the stack. -/

/-- The counters' part of `SystemInv`, in the number of words held. -/
structure Counted (s : State) : Prop where
  count : s.convCount.toNat = depth s
  bound : depth s ≤ cap s
  room : s.phase ≠ .xmit → depth s < cap s

theorem systemInv_iff (s : State) : SystemInv s ↔ BlockInv s ∧ Counted s := by
  constructor
  · rintro ⟨hblock, hcount, hbound, hroom⟩
    have hdepth := (topInRange_iff s).1 hblock.top
    have htop := top_toInt_of_depth_le hdepth
    have heq : s.convCount.toNat = depth s := by omega
    exact ⟨hblock, heq, hdepth, fun hphase => heq ▸ hroom hphase⟩
  · rintro ⟨hblock, hcount, hbound, hroom⟩
    have htop := top_toInt_of_depth_le hbound
    exact ⟨hblock, by omega, by omega, fun hphase => hcount ▸ hroom hphase⟩

/-- The guard of TRANSMIT, in either variant's words, says that CAP words are held (R194). -/
theorem xmitGuard_iff {s : State} (h : s.convCount.toNat = depth s) : xmitGuard s = true ↔ depth s = cap s := by
  cases hv : s.cfg.variant with
  | simple => simp only [xmitGuard, hv, stackFull_iff]
  | extended =>
    simp only [xmitGuard, hv, beq_iff_eq, ← BitVec.toNat_inj, h, cap_extended hv]
    rfl

theorem Counted.congr {s t : State} (h : Counted s) (hcap : cap t = cap s) (hcount : t.convCount = s.convCount)
    (htop : t.top = s.top) (hroom : t.phase ≠ .xmit → depth s < cap s) : Counted t := by
  have hdepth : depth t = depth s := by rw [depth, depth, htop]
  exact ⟨by rw [hcount, hdepth, h.count], by rw [hdepth, hcap]; exact h.bound, by rwa [hdepth, hcap]⟩

theorem counted_of_empty {s : State} (htop : s.top = emptyTop) (hcount : s.convCount = 0) : Counted s := by
  have hdepth := depth_of_empty htop
  exact ⟨by rw [hcount, hdepth]; rfl, by omega, fun _ => hdepth ▸ cap_pos s⟩

/-- CONSUME finds room, since outside XMIT the stack is not full. -/
theorem Counted.room_of_consume {s : State} (h : Counted s) (ha : ctlNext s = some .consume) : depth s < cap s := by
  obtain ⟨hphase, -⟩ := enables_of_ctlNext ha
  exact h.room (by simp [hphase])

theorem advance_convCount (s : State) : (advance s).convCount = s.convCount := by rw [advance_frame s]

/-- CONSUME counts the word it stores. -/
theorem Counted.consume {s t : State} (h : Counted s) (he : Effect .consume s t) :
    t.convCount.toNat = s.convCount.toNat + 1 ∧ Counted t := by
  have hcap := he.cap_eq
  obtain ⟨ha, ⟨hfull, -⟩ | ⟨hroom, rfl⟩⟩ := he
  · exact absurd hfull (h.room_of_consume ha).ne
  have hlt : depth s < 127 := by rcases cap_cases s with ⟨-, hc⟩ | ⟨-, hc⟩ <;> omega
  have hcount := h.count
  have hnext : ((advance s).convCount + 1).toNat = s.convCount.toNat + 1 := by
    rw [advance_convCount, BitVec.toNat_add_of_lt (by simp; omega)]
    rfl
  have hdepth : (s.top + 1 + 1).toNat = depth s + 1 := depth_setTop_succ hlt
  refine ⟨hnext, hnext.trans ?_, ?_, fun hphase => absurd rfl hphase⟩
  · rw [hcount]
    exact hdepth.symm
  · rw [hcap]
    exact hdepth.trans_le hroom

/-- The counters along every operation of a SYSTEM trace (R202). -/
theorem Effect.counted {i : Instr} {s t : State} (he : Effect i s t) (hi : i.admittedIn .system = true)
    (h : Counted s) : Counted t := by
  have hcap := he.cap_eq
  cases i with
  | push d | pop | drain | advanceSimple | nextChan | nextMux => cases hi
  | reset =>
    subst he
    exact counted_of_empty rfl rfl
  | transmit =>
    obtain ⟨-, -, rfl⟩ := he
    exact counted_of_empty rfl rfl
  | tick =>
    subst he
    rw [tickBlock_frame] at hcap ⊢
    exact h.congr hcap rfl rfl h.room
  | convDone d =>
    subst he
    exact h.congr hcap rfl rfl h.room
  | startConv | wake =>
    obtain ⟨ha, rfl⟩ := he
    obtain ⟨hphase, -⟩ := enables_of_ctlNext ha
    exact h.congr hcap rfl rfl fun _ => h.room (by simp [hphase])
  | consume => exact (h.consume he).2
  | pass =>
    obtain ⟨ha, rfl⟩ := he
    obtain ⟨-, hxmit⟩ := enables_of_ctlNext ha
    refine h.congr hcap rfl rfl fun _ => ?_
    by_cases hphase : s.phase = .xmit
    · exact h.bound.lt_of_ne fun hfull => by simpa [hxmit hphase] using (xmitGuard_iff h.count).2 hfull
    · exact h.room hphase

/-! The place in the sweep table. -/

/-- The sequencer is at the place the table gives conversion `k` of a sweep that found the groups at `a` and `b`: the
row of R143 in EXTENDED; in SIMPLE, which leaves the groups, the channel of R142. -/
structure AtRow (a b : BitVec 4) (k : Nat) (s : State) : Prop where
  simple : s.cfg.variant = .simple → s.ctr.toNat % 16 = k % 16 ∧ s.muxA = a ∧ s.muxB = b
  extended : s.cfg.variant = .extended → seqOf s = rowSqr k b

theorem AtRow.congr {a b : BitVec 4} {k : Nat} {s t : State} (h : AtRow a b k s) (hcfg : t.cfg = s.cfg)
    (hctr : t.ctr = s.ctr) (hseq : seqOf t = seqOf s) : AtRow a b k t := by
  have hmux := hseq
  simp only [seqOf, Sqr.mk.injEq] at hmux
  obtain ⟨-, -, -, -, hmuxA, hmuxB⟩ := hmux
  refine ⟨?_, ?_⟩
  · rw [hcfg, hctr, hmuxA, hmuxB]
    exact h.simple
  · rw [hcfg, hseq]
    exact h.extended

/-- An advance goes on to the place of the next conversion. -/
theorem AtRow.advance {a b : BitVec 4} {k : Nat} {s : State} (h : AtRow a b k s) (hk : k < cap s) :
    AtRow a b (k + 1) (advance s) := by
  cases hv : s.cfg.variant with
  | simple =>
    obtain ⟨hctr, hmux⟩ := h.simple hv
    rw [advance_of_simple hv]
    refine ⟨fun _ => ⟨?_, hmux⟩, fun hv' => absurd (hv.symm.trans hv') nofun⟩
    simp only [BitVec.toNat_add]
    simp
    omega
  | extended =>
    rw [cap_extended hv] at hk
    refine ⟨fun hv' => ?_, fun _ => ?_⟩
    · rw [advance_cfg, hv] at hv'
      cases hv'
    · rw [seqOf_advance hv, h.extended hv, rowSqr_adv k hk]

/-- The place after the last conversion is the first place of the next sweep, which finds 0b1111 on side B's group in
EXTENDED (R146). -/
theorem AtRow.wrap {a b : BitVec 4} {s : State} (h : AtRow a b (cap s) s) :
    AtRow a (if s.cfg.variant = .simple then b else 15) 0 s where
  simple hv := by
    obtain ⟨hctr, hmux⟩ := h.simple hv
    rw [cap_simple hv] at hctr
    exact ⟨hctr, by rwa [if_pos hv]⟩
  extended hv := by
    rw [h.extended hv, cap_extended hv, hv]
    rfl

theorem phaseLocked_iff (s : State) :
    PhaseLocked s ↔
      ∃ a b, (s.cfg.variant = .extended → b = 0 ∨ b = 15) ∧ AtRow a b s.convCount.toNat s := by
  cases hv : s.cfg.variant with
  | simple =>
    rw [phaseLocked_simple hv]
    constructor
    · exact fun h => ⟨s.muxA, s.muxB, nofun, fun _ => ⟨h, rfl, rfl⟩, fun hv' => absurd (hv.symm.trans hv') nofun⟩
    · rintro ⟨a, b, -, h⟩
      exact (h.simple hv).1
  | extended =>
    rw [phaseLocked_extended hv]
    constructor
    · rintro ⟨b, hb, h⟩
      exact ⟨0, b, fun _ => hb, fun hv' => absurd (hv.symm.trans hv') nofun, fun _ => h⟩
    · rintro ⟨a, b, hb, h⟩
      exact ⟨b, hb rfl, h.extended hv⟩

/-- CONSUME advances the sequencer by one place. -/
theorem Effect.consume_atRow {a b : BitVec 4} {k : Nat} {s t : State} (he : Effect .consume s t) (h : AtRow a b k s)
    (hk : k < cap s) : AtRow a b (k + 1) t := by
  refine (h.advance hk).congr (he.output.1.trans (advance_cfg s).symm) ?_ he.seqOf_eq
  rw [he.consume_frame]

/-- Phase-locking along every operation of a SYSTEM trace: CONSUME goes to the next row, TRANSMIT back to the first,
and no other operation but RESET writes the sequencer or the counter. -/
theorem Effect.phaseLocked {i : Instr} {s t : State} (he : Effect i s t) (hi : i.admittedIn .system = true)
    (hc : Counted s) (h : PhaseLocked s) : PhaseLocked t := by
  have hcfg := he.output.1
  have hseq := he.seqOf_eq
  cases i with
  | push d | pop | drain | advanceSimple | nextChan | nextMux => cases hi
  | reset =>
    subst he
    exact phaseLocked_resetBlock s
  | consume =>
    obtain ⟨a, b, hb, hrow⟩ := (phaseLocked_iff s).1 h
    have hroom : s.convCount.toNat < cap s := hc.count ▸ hc.room_of_consume he.1
    refine (phaseLocked_iff t).2 ⟨a, b, hcfg ▸ hb, ?_⟩
    rw [(hc.consume he).1]
    exact he.consume_atRow hrow hroom
  | transmit =>
    obtain ⟨ha, -, rfl⟩ := he
    obtain ⟨-, hguard⟩ := enables_of_ctlNext ha
    obtain ⟨a, b, hb, hrow⟩ := (phaseLocked_iff s).1 h
    rw [hc.count.trans ((xmitGuard_iff hc.count).1 hguard)] at hrow
    refine (phaseLocked_iff _).2 ⟨a, _, fun hv => ?_, hrow.wrap.congr hcfg rfl hseq⟩
    rw [hcfg] at hv
    exact .inr (if_neg (by simp [hv]))
  | tick =>
    subst he
    exact (phaseLocked_congr hcfg hseq (by rw [tickBlock_frame]) (by rw [tickBlock_frame])).2 h
  | convDone d =>
    subst he
    exact (phaseLocked_congr hcfg hseq rfl rfl).2 h
  | startConv | wake | pass =>
    obtain ⟨-, rfl⟩ := he
    exact (phaseLocked_congr hcfg hseq rfl rfl).2 h

theorem counted_setTrace {s : State} (tr : Trace) (h : Counted s) : Counted (s.setTrace tr) :=
  ⟨h.count, h.bound, h.room⟩

/-- Settles O50: a step is one operation of the SYSTEM trace on the state without its word, and each of the invariants
is kept by every such operation. -/
theorem everySystemStepKeepsTheCounters : Obligations.EverySystemStepKeepsTheCounters := by
  intro s t hmode h hstep
  obtain ⟨hblock, hcounted⟩ := (systemInv_iff s).1 h
  obtain ⟨i, w, ws, -, hx⟩ := step_next hstep
  obtain ⟨-, hadmitted, -⟩ := exec_admitted hx
  rw [State.setTrace, hmode] at hadmitted
  have he := exec_effect hx
  have hkept : Counted (s.setTrace { mode := s.trace.mode, words := ws }) := counted_setTrace _ hcounted
  refine ⟨(systemInv_iff t).2 ⟨exec_blockInv (blockInv_setTrace _ hblock) hx, he.counted hadmitted hkept⟩, ?_, ?_⟩
  · rw [he.output.2.1]
    exact hmode
  · exact fun hlocked => he.phaseLocked hadmitted hkept ((phaseLocked_congr rfl rfl rfl rfl).2 hlocked)

end Sys2Proof.Machine
end

section
/-! The obligation of 41_channel_sequencer.md on a whole sweep (R142, R143, R146, with 43_scheduler.md R203, R204): what
a START_CONV and a TRANSMIT emit, TICKs between a sweep's operations, and the run of a sweep. -/

namespace Sys2Proof.Machine

open Sys2Proof.Safety

/-! What START_CONV and TRANSMIT emit. -/

/-- A row of EXTENDED's sweep table, less what the ADC does not sample, is the record of its conversion. -/
theorem rowSqr_record (a b : BitVec 4) {k : Nat} (hk : k < 34) :
    Record.start (rowSqr k b).chan (rowSqr k b).muxA (rowSqr k b).muxB = sweepStartRecord .extended a b k := by
  rcases Nat.lt_or_ge k 16 with hA | hA
  · simp only [rowSqr, sweepStartRecord, if_pos hA]
  rcases Nat.lt_or_ge k 32 with hB | hB
  · simp only [rowSqr, sweepStartRecord, if_neg (not_lt.2 hA), if_pos hB]
  obtain rfl | rfl : k = 32 ∨ k = 33 := by omega
  all_goals rfl

theorem rowSqr_muxB {k : Nat} (hk : k < 16) (b : BitVec 4) : (rowSqr k b).muxB = b := by
  simp only [rowSqr, if_pos hk]

/-- At the place of conversion `k` the ports show what the sweep table's record of it says. -/
theorem AtRow.record {a b : BitVec 4} {k : Nat} {s : State} (h : AtRow a b k s) (hk : k < cap s) :
    Record.start (selChan s) s.muxA s.muxB = sweepStartRecord s.cfg.variant a b k := by
  cases hv : s.cfg.variant with
  | simple =>
    obtain ⟨hctr, hmuxA, hmuxB⟩ := h.simple hv
    have hselect : selChan s = BitVec.ofNat 4 k := by
      apply BitVec.eq_of_toNat_eq
      rw [selChan_toNat_of_simple hv, hctr, BitVec.toNat_ofNat]
    rw [hselect, hmuxA, hmuxB]
    rfl
  | extended =>
    rw [cap_extended hv] at hk
    have hrow := h.extended hv
    have hchan : s.chan = (rowSqr k b).chan := congrArg Sqr.chan hrow
    have hmuxA : s.muxA = (rowSqr k b).muxA := congrArg Sqr.muxA hrow
    have hmuxB : s.muxB = (rowSqr k b).muxB := congrArg Sqr.muxB hrow
    rw [selChan_of_extended hv, hchan, hmuxA, hmuxB, rowSqr_record a b hk]

/-- A phase-locked state is at the place of `conv_count` in a sweep that found the groups as they are where the table
leaves them. -/
theorem atRow_of_phaseLocked {s : State} (h : PhaseLocked s) : AtRow s.muxA s.muxB s.convCount.toNat s := by
  obtain ⟨a, b, -, hrow⟩ := (phaseLocked_iff s).1 h
  refine ⟨fun hv => ⟨(hrow.simple hv).1, rfl, rfl⟩, fun hv => ?_⟩
  have hseq := hrow.extended hv
  have hmuxB : s.muxB = (rowSqr s.convCount.toNat b).muxB := congrArg Sqr.muxB hseq
  rw [hseq]
  by_cases hk : s.convCount.toNat < 16
  · rw [hmuxB, rowSqr_muxB hk]
  · exact rowSqr_congr (not_lt.1 hk) _ _

theorem startConv_record {s t : State} (h : SystemInv s) (hlocked : PhaseLocked s) (hx : exec .startConv s = .next t) :
    t.out = s.out ++ [sweepStartRecord s.cfg.variant s.muxA s.muxB s.convCount.toNat] := by
  obtain ⟨ha, rfl⟩ := exec_effect hx
  obtain ⟨hphase, -⟩ := enables_of_ctlNext ha
  have hroom := h.room (by simp [hphase])
  rw [← (atRow_of_phaseLocked hlocked).record hroom]
  rfl

theorem transmit_line {s t : State} (h : SystemInv s) (hx : exec .transmit s = .next t) :
    (held s).length = cap s ∧ t.out = s.out ++ [.line (held s).reverse, .flush] := by
  obtain ⟨-, hcounted⟩ := (systemInv_iff s).1 h
  obtain ⟨ha, -, rfl⟩ := exec_effect hx
  obtain ⟨-, hguard⟩ := enables_of_ctlNext ha
  exact ⟨(held_length s).trans ((xmitGuard_iff hcounted.count).1 hguard), List.append_assoc _ _ _⟩

/-! TICKs between operations. -/

theorem admission_tick (m : Mode) (v : Variant) : admission m v .tick = none := by
  cases m <;> rfl

/-- In such a state TICK changes nothing but the tick counter: in EXTENDED the sweep flag is set already. -/
structure TickSafe (s : State) : Prop where
  wf : s.cfg.wf = true
  flag : s.cfg.variant = .extended → s.sweepFlag = true

theorem TickSafe.congr {s t : State} (h : TickSafe s) (hcfg : t.cfg = s.cfg) (hflag : t.sweepFlag = s.sweepFlag) :
    TickSafe t :=
  ⟨hcfg ▸ h.wf, by rw [hcfg, hflag]; exact h.flag⟩

theorem tickBlock_of_tickSafe {s : State} (h : TickSafe s) : ∃ n, tickBlock s = s.setTickCount n := by
  cases hv : s.cfg.variant with
  | simple => exact ⟨s.tickCount, tickBlock_of_simple hv⟩
  | extended =>
    have hset : s.setSweepFlag true = s := by
      rw [← h.flag hv]
      rfl
    simp only [tickBlock, hv]
    split
    · exact ⟨0, congrArg (State.setTickCount · 0) hset⟩
    · exact ⟨_, rfl⟩

/-- The operations `is` lead from `s` to `t`, wherever TICKs come between them and whatever the tick counter. -/
def RunsTicked (is : List Instr) (s t : State) : Prop :=
  ∀ (js : List Instr) (m : Nat), js.filter (fun i => i != Instr.tick) = is →
    ∃ n, execAll js (s.setTickCount m) = .next (t.setTickCount n)

theorem RunsTicked.append {is js : List Instr} {s t u : State} (h : RunsTicked is s t) (h' : RunsTicked js t u) :
    RunsTicked (is ++ js) s u := by
  intro ks m hks
  obtain ⟨ks₁, ks₂, rfl, h₁, h₂⟩ := List.filter_eq_append_iff.1 hks
  obtain ⟨n, hn⟩ := h ks₁ m h₁
  rw [execAll_append_of_next hn]
  exact h' ks₂ n h₂

theorem runsTicked_nil {s : State} (h : TickSafe s) : RunsTicked [] s s := by
  intro js
  induction js with
  | nil => exact fun m _ => ⟨m, rfl⟩
  | cons i is ih =>
    intro m hi
    rw [List.filter_eq_nil_iff] at hi
    have htick : i = .tick := by simpa using hi i (List.mem_cons_self ..)
    subst htick
    obtain ⟨n, hn⟩ := tickBlock_of_tickSafe (s := s.setTickCount m) (h.congr rfl rfl)
    have hx : exec .tick (s.setTickCount m) = .next (s.setTickCount n) :=
      (ifAdmitted_eq (i := .tick) _ h.wf (admission_tick _ _)).trans (congrArg _ hn)
    rw [execAll_cons_of_next hx]
    exact ih n (List.filter_eq_nil_iff.2 fun j hj => hi j (List.mem_cons_of_mem _ hj))

/-- One operation that does not meet the tick counter. -/
theorem runsTicked_singleton {i : Instr} {s t : State} (hs : TickSafe s) (ht : TickSafe t)
    (hx : ∀ n, exec i (s.setTickCount n) = .next (t.setTickCount n)) : RunsTicked [i] s t := by
  intro js m hjs
  obtain ⟨js₁, js₂, rfl, hbefore, -, hafter⟩ := List.filter_eq_cons_iff.1 hjs
  obtain ⟨n, hn⟩ := runsTicked_nil hs js₁ m (List.filter_eq_nil_iff.2 hbefore)
  rw [execAll_append_of_next hn, execAll_cons_of_next (hx n)]
  exact runsTicked_nil ht js₂ n hafter

/-! The conversions of a sweep. -/

theorem advance_setTickCount (s : State) (n : Nat) : advance (s.setTickCount n) = (advance s).setTickCount n := by
  obtain ⟨hctr, hseq⟩ := advance_congr (s := s) (t := s.setTickCount n) rfl rfl rfl
  simp only [seqOf, Sqr.mk.injEq] at hseq
  obtain ⟨hchan, hsub, hmcount, hside, hmuxA, hmuxB⟩ := hseq
  have hframe := advance_frame (s.setTickCount n)
  rw [hctr, hchan, hsub, hmcount, hside, hmuxA, hmuxB] at hframe
  exact hframe.trans (congrArg (State.setTickCount · n) (advance_frame s)).symm

/-- SAMPLE's whole effect but for the sequencer. -/
theorem sampled_frame (d : Sample) (s : State) :
    sampled d s =
      { s with
        phase := .xmit, stack := s.stack.setIfInBounds (depth s) d, top := s.top + 1, rawSample := d,
        measReady := false, convPending := false, convCount := s.convCount + 1, ctr := (sampled d s).ctr,
        chan := (sampled d s).chan, sub := (sampled d s).sub, mcount := (sampled d s).mcount,
        side := (sampled d s).side, muxA := (sampled d s).muxA, muxB := (sampled d s).muxB,
        out := s.out ++ [.start (selChan s) s.muxA s.muxB] } := by
  rw [sampled, advance_frame]
  rfl

/-- SAMPLE ends in a CONSUME with room on the stack. -/
theorem effect_sampled {s : State} (d : Sample) (hroom : depth s < cap s) :
    Effect .consume (converted d s) (sampled d s) :=
  ⟨rfl, .inr ⟨hroom, rfl⟩⟩

/-- SAMPLE runs with TICKs anywhere between its operations, each of which is enabled after the one before. -/
theorem runsTicked_sample {s : State} (d : Sample) (h : TickSafe s) (hm : s.trace.mode = .system)
    (hphase : s.phase = .start) (hg : startGuard s = true) (hroom : depth s < cap s) :
    RunsTicked (sampleMacro d) s (sampled d s) := by
  have hnext : ctlNext s = some .startConv := by simp [ctlNext, hphase, hg]
  have hstart (n : Nat) : exec .startConv (s.setTickCount n) = .next ((startConv s).setTickCount n) :=
    (ifNext_eq (s := s.setTickCount n) _ h.wf hm).trans (if_pos hnext)
  have hdone (n : Nat) :
      exec (.convDone d) ((startConv s).setTickCount n) = .next ((convDone d (startConv s)).setTickCount n) :=
    ifAdmitted_eq (s := (startConv s).setTickCount n) _ h.wf (by
      rw [show ((startConv s).setTickCount n).trace.mode = .system from hm]
      rfl)
  have hwake (n : Nat) :
      exec .wake ((convDone d (startConv s)).setTickCount n) = .next ((converted d s).setTickCount n) :=
    (ifNext_eq (s := (convDone d (startConv s)).setTickCount n) _ h.wf hm).trans (if_pos rfl)
  have hconsume (n : Nat) :
      exec .consume ((converted d s).setTickCount n) = .next ((sampled d s).setTickCount n) := by
    refine ((ifNext_eq (s := (converted d s).setTickCount n) _ h.wf hm).trans (if_pos rfl)).trans ?_
    rw [consume_of_room (s := (converted d s).setTickCount n) hroom, advance_setTickCount]
    rfl
  have hsampled : TickSafe (sampled d s) := h.congr (by rw [sampled_frame]) (by rw [sampled_frame])
  have hstarted : TickSafe (startConv s) := h.congr rfl rfl
  have hlatched : TickSafe (convDone d (startConv s)) := h.congr rfl rfl
  have hwoken : TickSafe (converted d s) := h.congr rfl rfl
  exact (runsTicked_singleton h hstarted hstart).append <| (runsTicked_singleton hstarted hlatched hdone).append <|
    (runsTicked_singleton hlatched hwoken hwake).append <| runsTicked_singleton hwoken hsampled hconsume

/-- `s` is a state between two conversions of the sweep that began in `s₀`, with the samples `ds` taken. -/
structure SweepAt (s₀ : State) (ds : List Sample) (s : State) : Prop where
  cfg : s.cfg = s₀.cfg
  mode : s.trace.mode = .system
  safe : TickSafe s
  ready : s.measReady = false
  pending : s.convPending = false
  counted : Counted s
  row : AtRow s₀.muxA s₀.muxB ds.length s
  held : held s = ds
  out : s.out = s₀.out ++ (List.range ds.length).map (sweepStartRecord s₀.cfg.variant s₀.muxA s₀.muxB)

theorem sweepAt_of_sweepStart {s : State} (h : SweepStart s) : SweepAt s [] s where
  cfg := rfl
  mode := h.mode
  safe := ⟨h.config, fun hv => (h.extended hv).1⟩
  ready := h.ready
  pending := h.pending
  counted := counted_of_empty h.empty h.count
  row := by
    refine ⟨fun hv => ⟨h.simple hv, rfl, rfl⟩, fun hv => ?_⟩
    obtain ⟨-, hchan, hsub, hmcount, hside, hmuxA⟩ := h.extended hv
    simp only [seqOf, hchan, hsub, hmcount, hside, hmuxA]
    rfl
  held := held_of_depth_zero (depth_of_empty h.empty)
  out := (List.append_nil _).symm

section
variable {s₀ s : State} {ds : List Sample}

theorem SweepAt.depth_eq (h : SweepAt s₀ ds s) : depth s = ds.length := by rw [← held_length, h.held]

/-- Between two conversions of a sweep the next one can start (R192). -/
theorem SweepAt.can_start (h : SweepAt s₀ ds s) (hroom : depth s < cap s) : startGuard s = true := by
  refine (startGuard_iff s).2 ⟨h.ready, h.pending, ?_, ?_⟩
  · rw [Bool.eq_false_iff, ne_eq, stackFull_iff]
    exact hroom.ne
  · cases hv : s.cfg.variant with
    | simple => exact .inl rfl
    | extended => exact .inr (h.safe.flag hv)

/-- One conversion of a sweep. -/
theorem SweepAt.runs_sample (h : SweepAt s₀ ds s) (hphase : s.phase = .start) (d : Sample) :
    RunsTicked (sampleMacro d) s (sampled d s) ∧ SweepAt s₀ (ds ++ [d]) (sampled d s) := by
  have hroom : depth s < cap s := h.counted.room (by simp [hphase])
  have he := effect_sampled d hroom
  have hframe := sampled_frame d s
  refine ⟨runsTicked_sample d h.safe h.mode hphase (h.can_start hroom) hroom, ?_⟩
  have hconverted : Counted (converted d s) := h.counted.congr rfl rfl rfl fun _ => hroom
  have hrow : AtRow s₀.muxA s₀.muxB ds.length (converted d s) := h.row.congr rfl rfl rfl
  have hrecord := h.row.record (h.depth_eq ▸ hroom)
  rw [h.cfg] at hrecord
  exact
    { cfg := by rw [hframe]; exact h.cfg
      mode := by rw [hframe]; exact h.mode
      safe := h.safe.congr (by rw [hframe]) (by rw [hframe])
      ready := by rw [hframe]
      pending := by rw [hframe]
      counted := (hconverted.consume he).2
      row := by
        rw [List.length_append]
        exact he.consume_atRow hrow (h.depth_eq ▸ hroom)
      held := by rw [held_of_store rfl rfl hroom, h.held]
      out := by
        rw [hframe]
        simp only [h.out, hrecord, List.length_append, List.length_singleton, List.range_succ, List.map_append,
          List.map_singleton, List.append_assoc] }

/-- PASS, between two conversions of a sweep, goes on to START (R195, R198). -/
theorem SweepAt.runs_pass (h : SweepAt s₀ ds s) (hphase : s.phase = .xmit) (hroom : depth s < cap s) :
    RunsTicked [.pass] s (passPhase s) ∧ SweepAt s₀ ds (passPhase s) := by
  have hguard : xmitGuard s = false := by
    rw [Bool.eq_false_iff, ne_eq, xmitGuard_iff h.counted.count]
    exact hroom.ne
  have hsafe : TickSafe (passPhase s) := h.safe.congr rfl rfl
  have hnext : ctlNext s = some .pass := by simp [ctlNext, hphase, hguard]
  refine ⟨runsTicked_singleton h.safe hsafe fun n => ?_, ?_⟩
  · exact (ifNext_eq (s := s.setTickCount n) _ h.safe.wf h.mode).trans (if_pos hnext)
  · exact ⟨h.cfg, h.mode, hsafe, h.ready, h.pending, h.counted.congr rfl rfl rfl fun _ => hroom,
      h.row.congr rfl rfl rfl, h.held, h.out⟩

end

/-- A sweep's trace but for its TRANSMIT. -/
def conversions : List Sample → List Instr
  | [] => []
  | [d] => sampleMacro d
  | d :: ds => sampleMacro d ++ [.pass] ++ conversions ds

theorem sweepTrace_eq (d : Sample) (ds : List Sample) :
    sweepTrace (d :: ds) = conversions (d :: ds) ++ [.transmit] := by
  induction ds generalizing d with
  | nil => rfl
  | cons e es ih =>
    exact (congrArg (sampleMacro d ++ [.pass] ++ ·) (ih e)).trans (List.append_assoc _ _ _).symm

/-- The conversions of a sweep, TICKs anywhere between their operations. -/
theorem SweepAt.runs_conversions {s₀ s : State} {ds : List Sample} (e : Sample) (es : List Sample)
    (h : SweepAt s₀ ds s) (hphase : s.phase = .start) (hfit : ds.length + (e :: es).length ≤ cap s₀) :
    ∃ t, RunsTicked (conversions (e :: es)) s t ∧ SweepAt s₀ (ds ++ e :: es) t ∧ t.phase = .xmit := by
  induction es generalizing s ds e with
  | nil =>
    obtain ⟨hruns, hat⟩ := h.runs_sample hphase e
    exact ⟨_, hruns, hat, rfl⟩
  | cons e' es ih =>
    obtain ⟨hruns, hat⟩ := h.runs_sample hphase e
    have hroom : depth (sampled e s) < cap (sampled e s) := by
      rw [hat.depth_eq, cap_congr hat.cfg]
      simp at hfit ⊢
      omega
    obtain ⟨hpass, hat'⟩ := hat.runs_pass rfl hroom
    obtain ⟨t, hrest, hend, hxmit⟩ := ih e' hat' rfl (by simp at hfit ⊢; omega)
    refine ⟨t, (hruns.append hpass).append hrest, ?_, hxmit⟩
    rwa [List.append_assoc] at hend

/-- TRANSMIT after the last conversion of a sweep. -/
theorem SweepAt.exec_transmit {s₀ s : State} {ds : List Sample} (h : SweepAt s₀ ds s) (hphase : s.phase = .xmit)
    (hfull : ds.length = cap s₀) (n : Nat) :
    exec .transmit (s.setTickCount n) =
      .next (closeSweep (emit .flush (emit (.line ds.reverse) ((s.setTickCount n).setTop emptyTop)))) := by
  have hcap : depth s = cap s := by rw [h.depth_eq, hfull, cap_congr h.cfg]
  have hguard : xmitGuard s = true := (xmitGuard_iff h.counted.count).2 hcap
  have hnext : ctlNext s = some .transmit := by simp [ctlNext, hphase, hguard]
  refine ((ifNext_eq (s := s.setTickCount n) _ h.safe.wf h.mode).trans (if_pos hnext)).trans ?_
  rw [transmit, drain_held (s := s.setTickCount n) hcap.le, ← h.held]
  rfl

/-- Settles O48: the conversions and TRANSMIT one after the other, with the TICKs between them changing only the tick
counter, leave the sequencer at the place after the last row; and in a phase-locked state the record is the row's. -/
theorem aSweepTransmitsItsSamplesReversed : Obligations.ASweepTransmitsItsSamplesReversed := by
  refine ⟨fun s ds is hstart hlen htrace => ?_, fun _ _ => startConv_record,
    fun _ _ h _ => transmit_line h⟩
  obtain ⟨d, ds, rfl⟩ : ∃ e es, ds = e :: es := List.exists_cons_of_length_pos (hlen ▸ cap_pos s)
  have hfilter : is.filter (fun i => i != Instr.tick) = conversions (d :: ds) := by
    rw [List.filter_append, sweepTrace_eq] at htrace
    exact List.append_cancel_right htrace
  obtain ⟨u, hruns, hat, hphase⟩ := (sweepAt_of_sweepStart hstart).runs_conversions d ds hstart.phase (by simp [← hlen])
  obtain ⟨n, hn⟩ := hruns is s.tickCount hfilter
  have hrow := hat.row
  rw [List.nil_append] at hat hrow
  rw [hlen] at hrow
  have htransmit := hat.exec_transmit hphase hlen n
  refine ⟨_, (execAll_append_of_next hn).trans (execAll_cons_of_next htransmit), ?_, rfl, rfl, rfl, rfl, hat.ready,
    hat.pending, fun hv => ?_, fun hv => ?_⟩
  · refine (List.append_assoc _ _ _).trans (congrArg (· ++ _) ?_)
    rw [← hlen]
    exact hat.out
  · have hv' : u.cfg.variant = .simple := by rw [hat.cfg, hv]
    obtain ⟨hctr, hmux⟩ := hrow.simple hv'
    refine ⟨BitVec.eq_of_toNat_eq ?_, hmux⟩
    rw [cap_simple hv] at hctr
    exact (selChan_toNat_of_simple hv').trans hctr
  · have hv' : u.cfg.variant = .extended := by rw [hat.cfg, hv]
    have hseq : seqOf u = ⟨0, 0, 0, .a, 0, 15⟩ := by
      rw [hrow.extended hv', cap_extended hv]
      rfl
    exact Sqr.mk.inj hseq

end Sys2Proof.Machine
end

section
/-! The obligations of 42_conversion_and_timer.md: the ADC's conversion (R160, R161, R165 to R167), the timer's TICK and
its cadence (R162 to R164), and when a sample is ready with a well-behaved ADC (43_scheduler.md R191). -/

namespace Sys2Proof.Machine

open Sys2Proof.Safety

/-! What the events and the controller's actions answer. -/

/-- TICK is admitted in both trace modes and both variants. -/
theorem exec_tick_of_wf {s : State} (hw : s.cfg.wf = true) : exec .tick s = .next (tickBlock s) :=
  ifAdmitted_eq _ hw (admission_tick _ _)

/-- A controller action whose row of R195 the state does not meet is refused (R79). -/
theorem exec_of_not_enables {a : CtlAction} {s : State} (hw : s.cfg.wf = true) (hm : s.trace.mode = .system)
    (h : ¬Enables a s) : exec a.instr s = .refused .notEnabled := by
  obtain ⟨k, hk⟩ := exec_eq_ifNext a s
  rw [hk, ifNext_eq k hw hm]
  exact if_neg (mt enables_of_ctlNext h)

theorem ctlNext_of_wait {s : State} (hphase : s.phase = .wait) :
    ctlNext s = if s.convPending then none else some .wake := by
  simp only [ctlNext, hphase]

/-! A sample ready with a well-behaved ADC. -/

/-- If a sample is ready only in WAIT or CONSUME, the controller's only actions on a ready sample are WAKE and
CONSUME. -/
theorem not_ready_of_ctlNext {a : CtlAction} {s : State} (h : ReadyInv s) (ha : ctlNext s = some a)
    (hwake : a ≠ .wake) (hconsume : a ≠ .consume) : s.measReady = false := by
  rw [Bool.eq_false_iff]
  intro hready
  obtain hphase | hphase := h hready
  · rw [ctlNext_of_wait hphase] at ha
    split_ifs at ha
    exact hwake (Option.some.inj ha).symm
  · have hnext : ctlNext s = some .consume := by simp [ctlNext, hphase, consumeGuard, hready]
    exact hconsume (Option.some.inj (ha.symm.trans hnext))

/-- CONV_DONE finds the wait of R165, START_CONV and WAKE lead to WAIT and CONSUME, and past CONSUME no sample is
ready. -/
theorem Effect.readyInv {i : Instr} {s t : State} (he : Effect i s t) (hwait : WaitInv s) (h : ReadyInv s)
    (hadc : wellBehaved i s) : ReadyInv t := by
  cases i with
  | reset =>
    subst he
    exact readyInv_resetBlock s
  | convDone d =>
    subst he
    exact fun _ => .inl (hwait.1 (hadc d rfl))
  | startConv =>
    obtain ⟨-, rfl⟩ := he
    exact fun _ => .inl rfl
  | wake =>
    obtain ⟨-, rfl⟩ := he
    exact fun _ => .inr rfl
  | consume =>
    rw [he.consume_frame]
    exact nofun
  | transmit | pass =>
    have hready := he.not_ready nofun (not_ready_of_ctlNext h he.1 nofun nofun)
    exact fun hready' => absurd (hready.symm.trans hready') nofun
  | tick =>
    subst he
    rw [tickBlock_frame]
    exact h
  | push d | pop | drain | advanceSimple | nextChan | nextMux =>
    rw [he.micro_frame rfl]
    exact h

/-- Settles O52: both invariants are kept by every operation, and only the second needs the well-behaved ADC. -/
theorem wellBehavedAdcKeepsSamplesOrdered : Obligations.WellBehavedAdcKeepsSamplesOrdered :=
  fun _ _ _ hwait h hadc hx => ⟨(exec_effect hx).waitInv hwait, (exec_effect hx).readyInv hwait h hadc⟩

/-! The wait. -/

/-- While the controller has no action, only RESET and CONV_DONE write the phase or `conv_pending`. -/
theorem Effect.phase_pending_of_no_action {i : Instr} {s t : State} (he : Effect i s t) (h : ctlNext s = none)
    (hreset : i ≠ .reset) (hdone : ∀ d, i ≠ .convDone d) : t.phase = s.phase ∧ t.convPending = s.convPending := by
  cases i with
  | reset => exact absurd rfl hreset
  | convDone d => exact absurd rfl (hdone d)
  | startConv | wake | consume | transmit | pass => exact absurd (h.symm.trans he.1) nofun
  | tick =>
    subst he
    rw [tickBlock_frame]
    exact ⟨rfl, rfl⟩
  | push d | pop | drain | advanceSimple | nextChan | nextMux =>
    rw [he.micro_frame rfl]
    exact ⟨rfl, rfl⟩

/-- A completed conversion lets the controller wake (R160, R166). -/
theorem ctlNext_convDone {s : State} (d : Sample) (hphase : s.phase = .wait) :
    ctlNext (convDone d s) = some .wake :=
  ctlNext_of_wait (s := convDone d s) hphase

/-- Settles O43: in the wait the controller has no action, so only the events RESET and CONV_DONE write the two
fields. -/
theorem onlyConvDoneOrResetEndsTheWait : Obligations.OnlyConvDoneOrResetEndsTheWait := by
  intro s hphase hpending
  have hnone : ctlNext s = none := (ctlNext_of_wait hphase).trans (if_pos hpending)
  refine ⟨hnone, fun i t hx hreset hdone => ?_, fun d t hx => ?_, fun t hx => ?_⟩
  · obtain ⟨hphase', hpending'⟩ := (exec_effect hx).phase_pending_of_no_action hnone hreset hdone
    exact ⟨hphase'.trans hphase, hpending'.trans hpending⟩
  · obtain rfl : t = convDone d s := exec_effect hx
    exact ⟨rfl, hphase, ctlNext_convDone d hphase⟩
  · obtain rfl : t = resetBlock s := exec_effect hx
    exact ⟨rfl, rfl⟩

/-! The conversion's operations. -/

/-- Settles O31: CONV_DONE is an event of SYSTEM traces, enabled in every state. -/
theorem convDoneLatchesTheSample : Obligations.ConvDoneLatchesTheSample := by
  intro s d hw
  refine ⟨rfl, fun hm => exec_of_not_admittedIn hw (by rw [hm]; rfl), fun hm => ⟨?_, ctlNext_convDone d⟩⟩
  exact ifAdmitted_eq _ hw (by rw [hm]; rfl)

/-- Settles O37: START_CONV is `ctl_next` in START with its guard, and nowhere else. -/
theorem startConvStartsAndWaits : Obligations.StartConvStartsAndWaits := by
  intro s hw
  refine ⟨by decide, fun hm => exec_of_not_admittedIn hw (by rw [hm]; rfl), fun hm hphase hguard => ?_,
    fun hm hdisabled => exec_of_not_enables (a := .startConv) hw hm hdisabled⟩
  have hnext : ctlNext s = some .startConv := by simp only [ctlNext, hphase, if_pos hguard]
  exact (ifNext_eq _ hw hm).trans (if_pos hnext)

/-- Settles O38: WAKE is `ctl_next` in WAIT once `conv_pending` is clear, and nowhere else. -/
theorem wakeEndsTheWait : Obligations.WakeEndsTheWait := by
  intro s hw
  refine ⟨by decide, fun hm => exec_of_not_admittedIn hw (by rw [hm]; rfl), fun hm hphase hdone => ?_,
    fun hphase hpending => (ctlNext_of_wait hphase).trans (if_pos hpending),
    fun hm hdisabled => exec_of_not_enables (a := .wake) hw hm hdisabled⟩
  have hnext : ctlNext s = some .wake := (ctlNext_of_wait hphase).trans (if_neg (by simp [hdone]))
  exact (ifNext_eq _ hw hm).trans (if_pos hnext)

/-! The timer. -/

/-- TICK in EXTENDED with the counter below its threshold, which is then not 0. -/
theorem exec_tick_below {s : State} (hv : s.cfg.variant = .extended) (h : s.tickCount < s.cfg.tickThreshold) :
    exec .tick s =
      .next { s with
        tickCount := (s.tickCount + 1) % s.cfg.tickThreshold
        sweepFlag := s.sweepFlag || decide (s.tickCount + 1 = s.cfg.tickThreshold) } := by
  rw [exec_tick_of_wf ((wf_iff _).2 fun _ => Nat.one_le_of_lt h), tickBlock_below hv h]

/-- Settles O32: the two cases of `exec_tick_below`. -/
theorem tickCountsToTheThreshold : Obligations.TickCountsToTheThreshold := by
  intro s hv
  refine ⟨by decide, fun hzero => ?_, fun hlast => ?_, fun hbelow => ?_⟩
  · rw [← Bool.not_eq_true, wf_iff]
    exact fun hwf => absurd (hwf hv) (by simp [hzero])
  · rw [exec_tick_below hv (by omega), hlast, Nat.mod_self]
    simp
  · rw [exec_tick_below hv (by omega), Nat.mod_eq_of_lt hbelow]
    simp [hbelow.ne]

/-- Settles O33: every SIMPLE configuration is accepted, and TICK's effect there is none. -/
theorem tickDoesNothingInSimple : Obligations.TickDoesNothingInSimple := by
  intro s hv
  have hw : s.cfg.wf = true := (wf_iff _).2 fun hv' => absurd (hv.symm.trans hv') nofun
  exact ⟨by decide, by rw [exec_tick_of_wf hw, tickBlock_of_simple hv]⟩

/-! The cadence. -/

/-- The state `n` TICKs leave in EXTENDED: the ticks counted modulo the threshold, the flag set if they reach it. -/
def afterTicks (n : Nat) (s : State) : State :=
  { s with
    tickCount := (s.tickCount + n) % s.cfg.tickThreshold
    sweepFlag := s.sweepFlag || decide (s.cfg.tickThreshold ≤ s.tickCount + n) }

theorem afterTicks_zero {s : State} (h : s.tickCount < s.cfg.tickThreshold) : afterTicks 0 s = s := by
  simp only [afterTicks, Nat.add_zero, Nat.mod_eq_of_lt h, decide_eq_false (not_le.2 h), Bool.or_false]

/-- A TICK and `n` more are `n + 1` TICKs: the first one that reaches the threshold sets the flag for good. -/
theorem afterTicks_one_add {s : State} (n : Nat) (h : s.tickCount < s.cfg.tickThreshold) :
    afterTicks n (afterTicks 1 s) = afterTicks (n + 1) s := by
  have hcount : ((s.tickCount + 1) % s.cfg.tickThreshold + n) % s.cfg.tickThreshold =
      (s.tickCount + (n + 1)) % s.cfg.tickThreshold := by
    rw [Nat.mod_add_mod, Nat.add_assoc, Nat.add_comm 1 n]
  have hreach : (decide (s.cfg.tickThreshold ≤ s.tickCount + 1) ||
      decide (s.cfg.tickThreshold ≤ (s.tickCount + 1) % s.cfg.tickThreshold + n)) =
        decide (s.cfg.tickThreshold ≤ s.tickCount + (n + 1)) := by
    rw [← Bool.decide_or, decide_eq_decide]
    obtain hlast | hbelow := Nat.eq_or_lt_of_le h
    · omega
    · rw [Nat.mod_eq_of_lt hbelow]
      omega
  simp only [afterTicks, hcount, Bool.or_assoc]
  congr 1
  exact congrArg (s.sweepFlag || ·) hreach

theorem exec_tick_eq_afterTicks {s : State} (hv : s.cfg.variant = .extended)
    (h : s.tickCount < s.cfg.tickThreshold) : exec .tick s = .next (afterTicks 1 s) := by
  have hlast : s.tickCount + 1 = s.cfg.tickThreshold ↔ s.cfg.tickThreshold ≤ s.tickCount + 1 := by omega
  rw [exec_tick_below hv h, afterTicks]
  simp only [hlast]

theorem execAll_ticksMacro (n : Nat) {s : State} (hv : s.cfg.variant = .extended)
    (h : s.tickCount < s.cfg.tickThreshold) : execAll (ticksMacro n) s = .next (afterTicks n s) := by
  induction n generalizing s with
  | zero => exact congrArg _ (afterTicks_zero h).symm
  | succ n ih =>
    have hnext : (afterTicks 1 s).tickCount < (afterTicks 1 s).cfg.tickThreshold := Nat.mod_lt _ (Nat.zero_lt_of_lt h)
    rw [← afterTicks_one_add n h, ← ih (s := afterTicks 1 s) hv hnext, ticksMacro, List.replicate_succ,
      execAll_cons_of_next (exec_tick_eq_afterTicks hv h)]
    rfl

theorem mod_succ_eq_iff_dvd {m : Nat} (n : Nat) (h : 0 < m) : n % m + 1 = m ↔ m ∣ n + 1 := by
  rw [Nat.dvd_iff_mod_eq_zero, ← Nat.mod_add_mod]
  obtain hlast | hbelow : n % m + 1 = m ∨ n % m + 1 < m := Nat.eq_or_lt_of_le (Nat.mod_lt n h)
  · simp only [hlast, Nat.mod_self]
  · rw [Nat.mod_eq_of_lt hbelow]
    omega

/-- TICK and RESET alone write the tick counter (R28). -/
theorem Effect.tickCount_eq {i : Instr} {s t : State} (he : Effect i s t) (htick : i ≠ .tick) (hreset : i ≠ .reset) :
    t.tickCount = s.tickCount := by
  cases i with
  | reset => exact absurd rfl hreset
  | tick => exact absurd rfl htick
  | convDone d =>
    subst he
    rfl
  | consume => rw [he.consume_frame]
  | startConv | wake | pass =>
    obtain ⟨-, rfl⟩ := he
    rfl
  | transmit =>
    obtain ⟨-, -, rfl⟩ := he
    rfl
  | push d | pop | drain | advanceSimple | nextChan | nextMux => rw [he.micro_frame rfl]

/-- Settles O34: `n` TICKs count to `n` modulo the threshold, from where one more reaches it exactly if it divides
`n + 1`. -/
theorem ticksSetTheFlagEveryThreshold : Obligations.TicksSetTheFlagEveryThreshold := by
  refine ⟨fun s n hw hv hzero => ?_, fun s t hx => ?_,
    fun i s t hx htick hreset => (exec_effect hx).tickCount_eq htick hreset⟩
  · have hpos : 0 < s.cfg.tickThreshold := (wf_iff _).1 hw hv
    have hcount : (afterTicks n s).tickCount = n % s.cfg.tickThreshold := by rw [afterTicks, hzero, Nat.zero_add]
    have hflag : (afterTicks n s).sweepFlag = (s.sweepFlag || decide (s.cfg.tickThreshold ≤ n)) := by
      rw [afterTicks, hzero, Nat.zero_add]
    refine ⟨_, execAll_ticksMacro n hv (hzero ▸ hpos), hcount, hflag, fun u v hcfg hu hclear hx => ?_⟩
    rw [hcount] at hu
    have hbelow : u.tickCount < u.cfg.tickThreshold := by
      rw [hu, hcfg]
      exact Nat.mod_lt n hpos
    rw [exec_tick_below (hcfg ▸ hv) hbelow] at hx
    cases hx
    rw [hclear, hu, hcfg, Bool.false_or, decide_eq_true_iff]
    exact mod_succ_eq_iff_dvd n hpos
  · obtain ⟨-, -, rfl⟩ := exec_effect hx
    rfl

end Sys2Proof.Machine
end

section
/-! The obligations of 43_scheduler.md: the guards (R192 to R194), the controller's one action (R195) with CONSUME,
TRANSMIT and PASS (R196 to R198), and when the controller starts a sweep or is idle (R191, R199, R205, R206). -/

namespace Sys2Proof.Machine

open Sys2Proof.Safety

/-! The rows of R195, by phase (that of WAIT is `ctlNext_of_wait`). -/

theorem ctlNext_of_start {s : State} (hphase : s.phase = .start) :
    ctlNext s =
      if startGuard s then some .startConv else if consumeGuard s || xmitGuard s then some .pass else none := by
  simp only [ctlNext, hphase]

theorem ctlNext_of_consume {s : State} (hphase : s.phase = .consume) :
    ctlNext s = if consumeGuard s then some .consume else some .pass := by
  simp only [ctlNext, hphase]

theorem ctlNext_of_xmit {s : State} (hphase : s.phase = .xmit) :
    ctlNext s = if xmitGuard s then some .transmit else some .pass := by
  simp only [ctlNext, hphase]

/-! What CONSUME and TRANSMIT leave on a stack whose index is in range. -/

/-- CONSUME on a full stack drops the sample and counts it (R196). -/
theorem consume_of_full {s : State} (h : depth s = cap s) : consume s = .ok (countSample (advance s)) := by
  rw [consume, push_advance_full _ h]
  rfl

theorem transmit_of_range {s : State} (h : depth s ≤ cap s) :
    transmit s = .ok (closeSweep (emit .flush (emit (.line (held s).reverse) (s.setTop emptyTop)))) := by
  rw [transmit, drain_held h]
  rfl

/-- The slot a push writes, by the index and by the number of words held. -/
theorem top_succ_toNat {s : State} (h : depth s ≤ cap s) : (s.top.toInt + 1).toNat = depth s := by
  have htop := top_toInt_of_depth_le h
  omega

/-! A word of a controller action in a SYSTEM trace (R79). -/

section
variable {s : State} (hw : s.cfg.wf = true) (hm : s.trace.mode = .system)
include hw hm

theorem exec_consume_of_ctlNext (ha : ctlNext s = some .consume) : exec .consume s = finish (consume s) :=
  (ifNext_eq _ hw hm).trans (if_pos ha)

theorem exec_transmit_of_ctlNext (ha : ctlNext s = some .transmit) : exec .transmit s = finish (transmit s) :=
  (ifNext_eq _ hw hm).trans (if_pos ha)

theorem exec_pass_of_ctlNext (ha : ctlNext s = some .pass) :
    exec .pass s = .next { s with phase := phaseAfter s.phase } :=
  (ifNext_eq _ hw hm).trans (if_pos ha)

/-- Within the stack the controller's action meets no fault. -/
theorem exec_of_ctlNext {a : CtlAction} (ht : depth s ≤ cap s) (ha : ctlNext s = some a) :
    ∃ t, exec a.instr s = .next t := by
  cases a with
  | startConv | wake | pass => exact ⟨_, (ifNext_eq _ hw hm).trans (if_pos ha)⟩
  | consume =>
    obtain hfull | hroom := ht.eq_or_lt
    · exact ⟨_, (exec_consume_of_ctlNext hw hm ha).trans (congrArg finish (consume_of_full hfull))⟩
    · exact ⟨_, (exec_consume_of_ctlNext hw hm ha).trans (congrArg finish (consume_of_room hroom))⟩
  | transmit => exact ⟨_, (exec_transmit_of_ctlNext hw hm ha).trans (congrArg finish (transmit_of_range ht))⟩

theorem exec_of_ctlNext_ne {a : CtlAction} (ha : ctlNext s ≠ some a) : exec a.instr s = .refused .notEnabled := by
  obtain ⟨k, hk⟩ := exec_eq_ifNext a s
  rw [hk, ifNext_eq k hw hm, if_neg ha]

end

/-- Settles O36: the rows are those of the lemmas by phase, and an action's effect within the stack is a next state. -/
theorem controllerTakesItsOneAction : Obligations.ControllerTakesItsOneAction := by
  refine fun s => ⟨fun hphase hstart => ?_, fun hphase hstart hlater => ?_, fun hphase hstart hconsume hxmit => ?_,
    fun hphase hdone => ?_, fun hphase hpending => ?_, fun hphase hready => ?_, fun hphase hready => ?_,
    fun hphase hxmit => ?_, fun hphase hxmit => ?_, fun a hw hm ht => ⟨fun ha => ?_, exec_of_ctlNext_ne hw hm⟩⟩
  · rw [ctlNext_of_start hphase, if_pos hstart]
  · rw [ctlNext_of_start hphase, hstart, Bool.or_eq_true_iff.2 hlater]
    rfl
  · rw [ctlNext_of_start hphase, hstart, hconsume, hxmit]
    rfl
  · rw [ctlNext_of_wait hphase, hdone]
    rfl
  · rw [ctlNext_of_wait hphase, if_pos hpending]
  · rw [ctlNext_of_consume hphase, if_pos hready]
  · rw [ctlNext_of_consume hphase, hready]
    rfl
  · rw [ctlNext_of_xmit hphase, if_pos hxmit]
  · rw [ctlNext_of_xmit hphase, hxmit]
    rfl
  · exact exec_of_ctlNext hw hm ((topInRange_iff s).1 ht) ha

/-! TICK and the guards. -/

/-- A TICK never clears the sweep flag, and the start guard reads nothing else that it writes. -/
theorem startGuard_tickBlock {s : State} (h : startGuard s = true) : startGuard (tickBlock s) = true := by
  obtain ⟨hready, hpending, hfull, hvariant⟩ := (startGuard_iff s).1 h
  have hflag (hset : s.sweepFlag = true) : (tickBlock s).sweepFlag = true :=
    (tickBlock_sweepFlag s).elim (·.trans hset) (·.2)
  rw [tickBlock_frame, startGuard_iff]
  exact ⟨hready, hpending, hfull, hvariant.imp_right hflag⟩

/-- Settles O44: beside the start guard no guard reads the tick counter or the sweep flag. -/
theorem tickOnlyEnablesTheStart : Obligations.TickOnlyEnablesTheStart := by
  intro s t hx
  obtain rfl : t = tickBlock s := exec_effect hx
  refine ⟨startGuard_tickBlock, ?_, ?_⟩
  all_goals
    rw [tickBlock_frame]
    rfl

/-! START with nothing pending. -/

/-- With nothing pending the controller in START finds room and no work of a later phase, so only the sweep flag of
EXTENDED can keep it idle (R199). -/
theorem Counted.ctlNext_of_nothing_pending {s : State} (h : Counted s) (hphase : s.phase = .start)
    (hready : s.measReady = false) (hpending : s.convPending = false) :
    ctlNext s = if s.cfg.variant = .extended ∧ s.sweepFlag = false then none else some .startConv := by
  have hroom := h.room (by simp [hphase])
  have hfull : isFull s = false := by
    rw [Bool.eq_false_iff, ne_eq, stackFull_iff]
    exact hroom.ne
  have hxmit : xmitGuard s = false := by
    rw [Bool.eq_false_iff, ne_eq, xmitGuard_iff h.count]
    exact hroom.ne
  have hstart : startGuard s = true ↔ ¬(s.cfg.variant = .extended ∧ s.sweepFlag = false) := by
    rw [startGuard_iff, and_iff_right hready, and_iff_right hpending, and_iff_right hfull]
    cases s.cfg.variant <;> simp
  rw [ctlNext_of_start hphase, consumeGuard, hready, hxmit]
  by_cases hidle : s.cfg.variant = .extended ∧ s.sweepFlag = false
  · rw [if_pos hidle, if_neg fun hguard => hstart.1 hguard hidle]
    rfl
  · rw [if_neg hidle, if_pos (hstart.2 hidle)]

/-- Settles O46: START_CONV has the start guard, and TRANSMIT leaves an empty stack with the flag clear. -/
theorem sweepsAreGatedByTheFlag : Obligations.SweepsAreGatedByTheFlag := by
  refine ⟨fun s t hx hv => ?_, fun s t hx hready hpending => ?_⟩
  · obtain ⟨-, hguard⟩ := enables_of_ctlNext (ctlNext_of_exec (a := .startConv) hx)
    obtain ⟨-, -, -, hsimple | hflag⟩ := (startGuard_iff s).1 hguard
    · exact absurd (hv.symm.trans hsimple) nofun
    · exact hflag
  · obtain ⟨-, -, rfl⟩ := exec_effect hx
    refine (Counted.ctlNext_of_nothing_pending (counted_of_empty rfl rfl) ?_ ?_ ?_).trans ?_
    exacts [rfl, hready, hpending, if_congr (and_iff_left rfl) rfl rfl]

/-- Settles O53: in START the invariants leave nothing pending. -/
theorem idleExactlyBetweenSweeps : Obligations.IdleExactlyBetweenSweeps := by
  intro s h hordered hphase
  obtain ⟨hblock, hcounted⟩ := (systemInv_iff s).1 h
  have hready : s.measReady = false := by
    rw [Bool.eq_false_iff]
    intro hset
    simpa [hphase] using hordered hset
  have hpending : s.convPending = false := by
    rw [Bool.eq_false_iff]
    intro hset
    simpa [hphase] using hblock.wait.1 hset
  rw [hcounted.ctlNext_of_nothing_pending hphase hready hpending]
  exact ite_eq_left_iff.trans (by simp)

/-! The guards and the actions of a scheduler iteration. -/

/-- Settles O35: CAP of EXTENDED is 34. -/
theorem guardsReadTheState : Obligations.GuardsReadTheState := by
  refine fun s => ⟨startGuard_iff s, Iff.rfl, fun hv => ?_, fun hv => ?_⟩
  · simp only [xmitGuard, hv]
  · simp only [xmitGuard, hv, cap_extended hv, beq_iff_eq]
    rfl

/-- Settles O39: CONSUME is `ctl_next` in CONSUME with a sample ready and nowhere else; in its range the index plus 1 is
the number of words held, the slot it writes. -/
theorem consumeBuffersOneSample : Obligations.ConsumeBuffersOneSample := by
  intro s hw
  have hnext (hphase : s.phase = .consume) (hready : s.measReady = true) : ctlNext s = some .consume :=
    (ctlNext_of_consume hphase).trans (if_pos hready)
  refine ⟨by decide, fun hm => exec_of_not_admittedIn hw (by rw [hm]; rfl), fun hm hphase hready hfull => ?_,
    fun hm hphase hready hfull ht => ?_, fun hm hdisabled => exec_of_not_enables (a := .consume) hw hm hdisabled⟩
  · rw [exec_consume_of_ctlNext hw hm (hnext hphase hready), consume_of_full ((stackFull_iff s).1 hfull), countSample,
      advance_convCount]
    rfl
  · rw [topInRange_iff] at ht
    rw [exec_consume_of_ctlNext hw hm (hnext hphase hready), consume_of_room (depth_lt_cap_of_not_full hfull ht),
      top_succ_toNat ht, ← advance_convCount s]
    rfl

/-- Settles O40: TRANSMIT is `ctl_next` in XMIT with its guard and nowhere else, and drains the held words. -/
theorem transmitDrainsAndCloses : Obligations.TransmitDrainsAndCloses := by
  intro s hw
  refine ⟨by decide, fun hm => exec_of_not_admittedIn hw (by rw [hm]; rfl), fun hm hphase hguard ht => ?_,
    fun hm hdisabled => exec_of_not_enables (a := .transmit) hw hm hdisabled⟩
  have hnext : ctlNext s = some .transmit := (ctlNext_of_xmit hphase).trans (if_pos hguard)
  rw [exec_transmit_of_ctlNext hw hm hnext, transmit_of_range ((topInRange_iff s).1 ht), emit, emit,
    State.setOut, State.setOut, List.append_assoc]
  rfl

/-- Settles O41: where PASS is `ctl_next` it writes the phase only; WAIT has no PASS, and START has one only in the row
with a later phase's guard. -/
theorem passGoesToTheNextPhase : Obligations.PassGoesToTheNextPhase := by
  intro s hw
  refine ⟨by decide, fun hm => exec_of_not_admittedIn hw (by rw [hm]; rfl), fun hm ha => ?_,
    fun hm => exec_of_ctlNext_ne (a := .pass) hw hm⟩
  have hpass := exec_pass_of_ctlNext hw hm ha
  obtain ⟨hwait, -⟩ := enables_of_ctlNext ha
  refine ⟨fun hphase => ⟨?_, ?_⟩, fun hphase => ?_, fun hphase => ?_, hwait⟩
  · rw [ctlNext_of_start hphase] at ha
    split_ifs at ha with hstart hlater
    · cases ha
    · exact Bool.or_eq_true_iff.1 hlater
  all_goals
    rw [hpass, hphase]
    rfl

end Sys2Proof.Machine
end

section
/-! The obligations of 44_interfaces.md: the strobes of a DRAIN (R225), the digits of a token (R226, R227) and the length of
a line (R228). -/

namespace Sys2Proof.Machine

open Sys2Proof.Safety

/-! The strobes of a DRAIN. -/

theorem Effect.drain_out {s t : State} (he : Effect .drain s t) :
    t.out = s.out ++ [.line (held s).reverse, .flush] := by
  obtain ⟨-, rfl⟩ := he
  simp [emit]

/-- Settles O58: the records a DRAIN adds are its line and a flush. -/
theorem drainStrobesTheWordsThenEolThenFlush : Obligations.DrainStrobesTheWordsThenEolThenFlush := by
  intro s t _ hx
  rw [(exec_effect hx).drain_out, List.drop_left]
  simp [strobesOf]

/-! The characters of a token. -/

/-- The character of a digit is that of the number's last digit. -/
theorem digitByte_mod (n : Nat) : digitByte (n % 10) = digitByte n := by
  rw [digitByte, digitByte, Nat.mod_mod]

/-- A number below 10000 is its four decimal digits in place; of a larger one these are the last four. -/
theorem eq_last_four_digits (n : Nat) :
    n % 10000 = 1000 * (n / 1000 % 10) + 100 * (n / 100 % 10) + 10 * (n / 10 % 10) + n % 10 := by
  omega

theorem token_of_lt {v : Sample} (h : v.toNat < 10000) :
    token v = [digitByte (v.toNat / 1000 % 10), digitByte (v.toNat / 100 % 10), digitByte (v.toNat / 10 % 10),
      digitByte (v.toNat % 10), 0x7C] := by
  rw [token, dec4, if_pos h]
  simp only [digitByte_mod]
  rfl

theorem token_of_ge {v : Sample} (h : 10000 ≤ v.toNat) :
    token v = [digitByte (v.toNat / 10000), digitByte (v.toNat / 1000 % 10), digitByte (v.toNat / 100 % 10),
      digitByte (v.toNat / 10 % 10), digitByte (v.toNat % 10), 0x7C] := by
  rw [token, dec4, if_neg (not_lt.2 h)]
  simp only [digitByte_mod]
  rfl

/-- Settles O59: the digits are the remainders modulo 10 of the value's quotients; a sample is below 65536, so the quotient
by 10000 is one digit. -/
theorem tokensAreDecimalDigits : Obligations.TokensAreDecimalDigits := by
  intro v
  have hdigits := eq_last_four_digits v.toNat
  have hlast (n : Nat) : n % 10 < 10 := Nat.mod_lt n (by decide)
  refine ⟨fun h => ⟨_, _, _, _, hlast _, hlast _, hlast _, hlast _, ?_, token_of_lt h⟩,
    fun h => ⟨_, _, _, _, _, ?_, ?_, hlast _, hlast _, hlast _, hlast _, ?_, token_of_ge h⟩⟩
  · rwa [Nat.mod_eq_of_lt h] at hdigits
  · exact Nat.div_pos h (by decide)
  · have := v.isLt
    omega
  · have hsplit := Nat.div_add_mod v.toNat 10000
    omega

/-! The length of a line. -/

theorem token_length_of_lt {v : Sample} (h : v.toNat < 10000) : (token v).length = 5 := by
  rw [token_of_lt h]
  rfl

theorem lineTokens_length {ws : List Sample} (h : ∀ v ∈ ws, v.toNat < 10000) :
    (lineTokens ws).length = 5 * ws.length := by
  induction ws with
  | nil => rfl
  | cons v vs ih =>
    obtain ⟨hv, hvs⟩ := List.forall_mem_cons.1 h
    calc (lineTokens (v :: vs)).length
      _ = (token v).length + (lineTokens vs).length := List.length_append
      _ = 5 + 5 * vs.length := by rw [token_length_of_lt hv, ih hvs]
      _ = 5 * (v :: vs).length := by rw [List.length_cons, Nat.mul_succ, Nat.add_comm]

/-- Settles O60: each word of at most 9999 is five characters, and CAP is 16 or 34. -/
theorem linesHaveFiveCharactersPerWord : Obligations.LinesHaveFiveCharactersPerWord := by
  intro s ws hws hlen
  have htokens : (lineTokens ws).length = 5 * cap s :=
    hlen ▸ lineTokens_length fun v hv => Nat.lt_succ_of_le (hws v hv)
  refine ⟨htokens, ?_, rfl⟩
  obtain ⟨hv, hcap⟩ | ⟨hv, hcap⟩ := cap_cases s <;> rw [htokens, hv, hcap] <;> rfl

end Sys2Proof.Machine
end

section
/-! The obligations of 60_exceptions.md: nothing faults while the stack's index is in range (R250, 20_memory.md R53). -/

namespace Sys2Proof.Machine

open Sys2Proof.Safety

/-! What stands before and after an effect adds no fault of its own: the checks refuse, and `finish` passes a state on. -/

theorem ifAdmitted_ne_fault {i : Instr} {s : State} {k : Result} {f : Fault} (hk : k ≠ .fault f) :
    ifAdmitted i s k ≠ .fault f := by
  unfold ifAdmitted
  split
  · nofun
  · split
    · nofun
    · exact hk

theorem ifNext_ne_fault {a : CtlAction} {s : State} {k : Result} {f : Fault} (hk : k ≠ .fault f) :
    ifNext a s k ≠ .fault f := by
  refine ifAdmitted_ne_fault ?_
  split
  · exact hk
  · nofun

theorem finish_ne_fault {e : Except Fault State} {f : Fault} (h : ∃ t, e = .ok t) : finish e ≠ .fault f := by
  obtain ⟨t, rfl⟩ := h
  nofun

/-! The stack's accesses with the index in range. -/

section
variable {s : State} (h : depth s ≤ cap s)
include h

theorem exists_push_of_range (d : Sample) : ∃ t, push d s = .ok t := by
  obtain hfull | hroom := h.eq_or_lt
  · exact ⟨_, push_full d hfull⟩
  · exact ⟨_, push_room d hroom⟩

theorem exists_pop_of_range : ∃ r, pop s = .ok r := by
  cases hd : depth s with
  | zero => exact ⟨_, pop_empty hd⟩
  | succ n => exact ⟨_, pop_held hd (by omega)⟩

theorem exists_consume_of_range : ∃ t, consume s = .ok t := by
  obtain hfull | hroom := h.eq_or_lt
  · exact ⟨_, consume_of_full hfull⟩
  · exact ⟨_, consume_of_room hroom⟩

/-- Only PUSH, POP, DRAIN, CONSUME and TRANSMIT access the stack, and each finds its slots in range. -/
theorem exec_ne_fault (i : Instr) (f : Fault) : exec i s ≠ .fault f := by
  cases i with
  | reset => exact ifAdmitted_ne_fault (i := .reset) (k := .next _) nofun
  | tick => exact ifAdmitted_ne_fault (i := .tick) (k := .next _) nofun
  | convDone d | advanceSimple | nextChan | nextMux => exact ifAdmitted_ne_fault nofun
  | startConv | wake | pass => exact ifNext_ne_fault nofun
  | push d => exact ifAdmitted_ne_fault (finish_ne_fault (exists_push_of_range h d))
  | pop =>
    obtain ⟨r, hr⟩ := exists_pop_of_range h
    exact ifAdmitted_ne_fault (finish_ne_fault ⟨_, congrArg (Except.map _) hr⟩)
  | drain => exact ifAdmitted_ne_fault (finish_ne_fault ⟨_, drain_held h⟩)
  | consume => exact ifNext_ne_fault (finish_ne_fault (exists_consume_of_range h))
  | transmit => exact ifNext_ne_fault (finish_ne_fault ⟨_, transmit_of_range h⟩)

end

/-- A step that faults runs an operation that faults on the state without the trace's next word. -/
theorem step_fault {s : State} {f : Fault} (h : step s = .fault f) :
    ∃ (i : Instr) (ws : List Word), exec i (s.setTrace { mode := s.trace.mode, words := ws }) = .fault f := by
  obtain ⟨hend, hword⟩ := stepRunsTheDecodedWord s
  cases hw : s.trace.words with
  | nil => cases (hend hw).symm.trans h
  | cons w ws =>
    obtain ⟨hrefused, hrun⟩ := hword w ws hw
    cases hd : decodeIn s.trace.mode s.cfg.variant w with
    | error r => cases (hrefused r hd).symm.trans h
    | ok i => exact ⟨i, ws, (hrun i hd).symm.trans h⟩

/-- Settles O54: a step's operation runs on the state without its word, whose index is the same. -/
theorem nothingFaultsWithinTheStack : Obligations.NothingFaultsWithinTheStack := by
  intro s ht
  have hrange : depth s ≤ cap s := (topInRange_iff s).1 ht
  refine ⟨exec_ne_fault hrange, fun f hstep => ?_⟩
  obtain ⟨i, ws, hx⟩ := step_fault hstep
  exact exec_ne_fault (s := s.setTrace ⟨s.trace.mode, ws⟩) hrange i f hx

end Sys2Proof.Machine
end

section
/-! The obligations of 70_reset_and_hazards.md: what RESET writes (R290), and that power-on is RESET (R291). -/

namespace Sys2Proof.Machine

/-- RESET is admitted in both trace modes and both variants. -/
theorem admission_reset (m : Mode) (v : Variant) : admission m v .reset = none := by
  cases m <;> rfl

theorem exec_reset_of_wf {s : State} (hw : s.cfg.wf = true) : exec .reset s = .next (resetBlock s) :=
  ifAdmitted_eq _ hw (admission_reset _ _)

/-- The index RESET writes is the -1 of R22. -/
theorem emptyTop_eq_neg_one : emptyTop = -1 := by decide

/-- Settles O29: the effect of RESET, behind checks that hold in every mode and variant. -/
theorem resetClearsAllButSamples : Obligations.ResetClearsAllButSamples := by
  intro s hw
  refine ⟨by decide, ?_⟩
  rw [exec_reset_of_wf hw, resetBlock, emptyTop_eq_neg_one]

/-- What power-on gives the stack, `raw_sample` and the output trace, RESET keeps; every other field the two write
alike (R291). -/
theorem powerOn_eq_resetBlock (s : State) :
    State.powerOn s.cfg s.trace =
      { resetBlock s with
        stack := (State.powerOn s.cfg s.trace).stack
        rawSample := (State.powerOn s.cfg s.trace).rawSample
        out := [] } :=
  rfl

/-- Settles O30: RESET of any state of the configuration and trace is power-on outside the three fields, and the
configuration of `State.reset` is accepted. -/
theorem powerOnIsReset : Obligations.PowerOnIsReset := by
  refine ⟨?_, Config.built, _, built_wf, rfl⟩
  rintro s _ _ hw rfl rfl
  exact ⟨resetBlock s, exec_reset_of_wf hw, powerOn_eq_resetBlock s⟩

end Sys2Proof.Machine
end
